-- ==== Sys2Proof/Word.lean ====
section
/-! DEFINITION. The word types of the roguestats LCG engine: the 32-bit register, the byte of the table ROM, and the 64-bit
command and response words (00_scope.md R6, R7; 30_encoding.md R63, R64). Plain arithmetic of the words is Lean's own BitVec. -/

namespace Sys2Proof

/-- One byte of the table ROM, a character code (10_state.md R27). -/
abbrev Byte := BitVec 8

/-- What `STATE` and every operand field hold: `XLEN = 32` bits, signed two's complement (00_scope.md R5, 10_state.md R20). -/
abbrev Word := BitVec 32

/-- A command word `cmd[63:0]` (30_encoding.md R60, R63). -/
abbrev CmdWord := BitVec 64

/-- A response word `rsp[63:0]` (30_encoding.md R61, R64). -/
abbrev RspWord := BitVec 64

end Sys2Proof
end

