-- ==== Sys2Proof/Syntax.lean ====
section
/-! DEFINITION. The command set: one constructor per row of spec/opcode_table.json (30_encoding.md R66). An operand is the
integer the rules use (R65: "rules use the integer `imm` itself"), the category a name. -/

namespace Sys2Proof

/-- The category operand of SELECT, `cat = cmd[32]`: 0 resident, 1 wandering (30_encoding.md R63, R65). -/
inductive Category where
  | resident
  | wandering
  deriving DecidableEq, Repr

/-- The four commands. Which integers an operand may be is WellFormed's business (30_encoding.md R65). -/
inductive Instr where
  /-- SEED imm: the seed value (40_generator.md R86). -/
  | seed (imm : Int)
  /-- DRAW (40_generator.md R87). -/
  | draw
  /-- RND imm: the range (40_generator.md R88). -/
  | rnd (imm : Int)
  /-- SELECT imm, cat: the level and the table (41_selector.md R104). -/
  | select (imm : Int) (cat : Category)
  deriving DecidableEq, Repr

end Sys2Proof
end

