-- ==== Sys2Proof/WellFormed.lean ====
section
/-! DEFINITION. Which commands can be given to the block at all: every operand is a 32-bit signed integer (30_encoding.md R65:
"the operands the block can be given are the integers in −2^31 to 2^31 − 1 and no others"). -/

namespace Sys2Proof

/-- `v` is the value of some 32-bit signed pattern (00_scope.md R7). -/
abbrev Fits32 (v : Int) : Prop := -2147483648 ≤ v ∧ v ≤ 2147483647

/-- The check, one operand at a time. Every category is legal, and no operand value makes a command illegal beyond its
width (30_encoding.md R67). -/
def wellFormed : Instr → Bool
  | .seed imm => decide (Fits32 imm)
  | .draw => true
  | .rnd imm => decide (Fits32 imm)
  | .select imm _ => decide (Fits32 imm)

/-- A command the block can be given. -/
abbrev WellFormed (i : Instr) : Prop := wellFormed i = true

end Sys2Proof
end

