-- ==== Sys2Proof/Decode.lean ====
section
/-! DEFINITION. The decoder, total on 64-bit words (30_encoding.md R72), and the encoder, both from the opcode map of R66.
A word that matches no row is illegal and decodes to `none` (R67); what the block answers to it is Machine/Channel.lean's. -/

namespace Sys2Proof

/-! ## Fields of a command word (R63) and the two readings of 32 bits (00_scope.md R7) -/

/-- `sext_32(b)`: the integer a 32-bit pattern stands for as signed. -/
def sext32 (b : Word) : Int := b.toInt

/-- `to_bits_32(v)`: the 32-bit two's-complement pattern of `v`. -/
def toBits32 (v : Int) : Word := BitVec.ofInt 32 v

/-- `OPC`, bits 63:56. -/
def opcField (w : CmdWord) : BitVec 8 := w.extractLsb' 56 8

/-- `ZERO`, bits 55:33, reserved. -/
def zeroField (w : CmdWord) : BitVec 23 := w.extractLsb' 33 23

/-- `W`, bit 32, the category bit of SELECT. -/
def wField (w : CmdWord) : BitVec 1 := w.extractLsb' 32 1

/-- `IMM`, bits 31:0. -/
def immField (w : CmdWord) : Word := w.extractLsb' 0 32

/-- `cat = cmd[32]` as a name: 0 resident, 1 wandering. -/
def catOfBit (b : BitVec 1) : Category := if b = 1#1 then .wandering else .resident

/-- The `W` bit of a category. -/
def catBit : Category → BitVec 1
  | .resident => 0#1
  | .wandering => 1#1

/-! ## The opcode map (R66) -/

/-- A row of the opcode map: "a word `w` selects the row when `(w & mask) = match`". -/
structure Row where
  mnemonic : String
  mask : CmdWord
  pattern : CmdWord
  deriving DecidableEq, Repr

def seedRow : Row := ⟨"SEED", 0xFFFFFFFF00000000#64, 0x0100000000000000#64⟩
def drawRow : Row := ⟨"DRAW", 0xFFFFFFFFFFFFFFFF#64, 0x0200000000000000#64⟩
def rndRow : Row := ⟨"RND", 0xFFFFFFFF00000000#64, 0x0300000000000000#64⟩
def selectRow : Row := ⟨"SELECT", 0xFFFFFFFE00000000#64, 0x0400000000000000#64⟩

/-- The whole map, in the table's order. -/
def opcodeMap : List Row := [seedRow, drawRow, rndRow, selectRow]

/-- The row a command is encoded in. -/
def rowOf : Instr → Row
  | .seed _ => seedRow
  | .draw => drawRow
  | .rnd _ => rndRow
  | .select _ _ => selectRow

/-- Does the word select the row? -/
def selects (r : Row) (w : CmdWord) : Bool := (w &&& r.mask) == r.pattern

/-- Two rows are disjoint where some bit fixed by both is fixed differently, so that no word selects both. -/
abbrev rowsDisjoint (r q : Row) : Prop :=
  (r.pattern &&& (r.mask &&& q.mask)) ≠ (q.pattern &&& (r.mask &&& q.mask))

/-! ## Decoder and encoder -/

/-- The decoder (R72): every word is one of the four commands or illegal (`none`, R67). -/
def decode (w : CmdWord) : Option Instr :=
  if selects seedRow w then some (.seed (sext32 (immField w)))
  else if selects drawRow w then some .draw
  else if selects rndRow w then some (.rnd (sext32 (immField w)))
  else if selects selectRow w then some (.select (sext32 (immField w)) (catOfBit (wField w)))
  else none

/-- Format C from its four fields (R63). -/
def formatC (opc : BitVec 8) (w : BitVec 1) (imm : Word) : CmdWord := opc ++ 0#23 ++ w ++ imm

/-- The encoder: the word of a well-formed command (R63, R66). -/
def encode : Instr → CmdWord
  | .seed imm => formatC 0x01#8 0#1 (toBits32 imm)
  | .draw => formatC 0x02#8 0#1 0#32
  | .rnd imm => formatC 0x03#8 0#1 (toBits32 imm)
  | .select imm cat => formatC 0x04#8 (catBit cat) (toBits32 imm)

/-- What the decoder reads from a command whose bits are `w`, numbered as spec/opcode_table.json numbers them. A command is
ONE 64-bit word, transferred whole (R60, R69; 20_memory.md R43), so the table's bit `k` is `cmd[k]`; the bits at and above
`nbits` are 0. -/
def decodeTableWord (nbits w : Nat) : Option Instr := decode (BitVec.ofNat 64 (w % 2 ^ nbits))

end Sys2Proof
end

