-- ==== Sys2Proof/Machine/State.lean ====
section
/-! DEFINITION. The state of the block and what stands at its ports, the reasons a step can stop, and the state after reset.
The block's own registers are STATE and SEEDED (10_state.md R20, R22) and the handshake state BUSY (R31). The table ROM is no
part of the state ("fixed, so a model may hold them as constants and not as a memory", R33): it is Machine/Rom.lean's.
The host's side of the ports is plain data too, so that one deterministic step can show every order of host actions. -/

namespace Sys2Proof.Machine

/-- One thing the host does at the block's ports (30_encoding.md R60 to R62, 70_reset_and_hazards.md R140). -/
inductive HostEvent where
  /-- The host raises `valid` on the command channel with this word; it stands there until it is accepted (R62). -/
  | present (w : CmdWord)
  /-- The host raises `ready` on the response channel: a response that stands there is transferred (R61). -/
  | takeRsp
  /-- The host drives the reset input to this level (R140). -/
  | setRst (level : Bool)
  deriving DecidableEq, Repr

/-- The state of the model. The first two fields are the block's architectural registers, the next two its handshake
state, the last four the host's side of the ports. -/
structure State where
  /-- `STATE`, 32 bits, signed (10_state.md R20). Reset: unspecified (R32); zero here by DESIGN CHOICE, log entry 1, UNSAFE. -/
  state : Word
  /-- `SEEDED`, one bit (10_state.md R22). Reset: 0 (R32). -/
  seeded : Bool
  /-- `BUSY`, one bit: a command has been accepted and its response not yet transferred (10_state.md R31 a). Reset: 0. -/
  busy : Bool
  /-- The response channel as the block drives it: the word with `valid` high, or `none` with `valid` low (30_encoding.md
  R61, R62). Reset: `valid` low (70_reset_and_hazards.md R141). -/
  rsp : Option RspWord
  /-- The level of the reset input `rst` (70_reset_and_hazards.md R140). After reset it has been released: low. -/
  rst : Bool
  /-- The command channel as the host drives it: the first word stands on `cmd` with `valid` high, the others wait behind it
  (30_encoding.md R60, R62); `[]` is `valid` low. -/
  cmds : List CmdWord
  /-- What the host does from here on, first event first. Not the block's: the model's input (log entry 3, DESIGN CHOICE). -/
  host : List HostEvent
  /-- The responses transferred to the host so far, oldest first. The host's record, not the block's: the block never reads
  it (10_state.md R33); it is there so that a claim can speak of the responses (92_eei_decisions.md D6). Log entry 3. -/
  taken : List RspWord
  deriving DecidableEq, Repr

/-- Why a step stops with a fault. The four faults of the SPEC are not here: they are responses (60_exceptions.md R128), so a
command that ends in one answers a next state. -/
inductive Fault where
  /-- Raised by SELECT alone, if the byte it reads has an address the ROM does not implement (20_memory.md R46,
  93_implementation_defined.md U11: "never a value"). Safe. No state reaches it with the parameters of a legal block. -/
  | romHole (addr : Nat)
  deriving DecidableEq, Repr

/-- Why a step is refused. -/
inductive Refusal where
  /-- For an arm of exec that has no meaning yet, naming its mnemonic. Safe. No arm answers it: all four commands have their
  meaning. -/
  | notModelled (mnemonic : String)
  deriving DecidableEq, Repr

/-- What a step of the model answers. -/
abbrev Outcome := Host.Outcome State Fault Refusal

/-- The machine right after reset (10_state.md R32, 70_reset_and_hazards.md R141): not seeded, idle, response `valid` low,
`rst` released. STATE's value is "unspecified: any 32-bit pattern"; zero is the model's choice (DESIGN CHOICE, log entry 1,
UNSAFE). The host has done nothing yet and no word stands on the command channel (log entry 3). -/
def State.reset : State where
  state := 0
  seeded := false
  busy := false
  rsp := none
  rst := false
  cmds := []
  host := []
  taken := []

end Sys2Proof.Machine
end

