-- ==== Sys2Proof/Machine/Ops.lean ====
section
/-! DEFINITION. The shared operations over the registers and the response channel: reading and writing STATE, ending a command
with a result, and RAISING A FAULT, the one operation every fault goes through (60_exceptions.md R128). There is no return
from a fault to model beside it: "after the fault response the block is idle and accepts the next command" (R129); the
transfer of the response that makes it so is Machine/Channel.lean's. -/

namespace Sys2Proof.Machine

/-- The status of a response: OK or one of the four faults (60_exceptions.md R120). -/
inductive Status where
  | ok
  | illegalCmd
  | notSeeded
  | invalidLevel
  | exhausted
  deriving DecidableEq, Repr

/-- The STATUS code (60_exceptions.md R120). -/
def Status.code : Status → BitVec 8
  | .ok => 0x00#8
  | .illegalCmd => 0x01#8
  | .notSeeded => 0x02#8
  | .invalidLevel => 0x03#8
  | .exhausted => 0x04#8

/-- Format R from its fields: STATUS, 24 zero bits, RESULT (30_encoding.md R64). -/
def formatR (st : Status) (result : Word) : RspWord := st.code ++ 0#24 ++ result

/-- STATUS, bits 63:56 of a response (R64). -/
def rspStatus (r : RspWord) : BitVec 8 := r.extractLsb' 56 8

/-- Bits 55:32 of a response, always 0 (R64). -/
def rspZero (r : RspWord) : BitVec 24 := r.extractLsb' 32 24

/-- RESULT, bits 31:0 of a response (R64). -/
def rspResult (r : RspWord) : Word := r.extractLsb' 0 32

/-- `STATE`, read as the signed integer it holds (00_scope.md R10, 10_state.md R20). -/
def readState (s : State) : Int := sext32 s.state

/-- `STATE <- v` (00_scope.md R10). -/
def writeState (v : Int) (s : State) : State := { s with state := toBits32 v }

/-- `respond(v)`: the command ends with status OK and RESULT = `v` (00_scope.md R12). The response stands on the response
channel until the host takes it (30_encoding.md R62). -/
def respond (result : Word) (s : State) : State := { s with rsp := some (formatR .ok result) }

/-- `raise <Fault>`: the command ends at once; the response carries the fault's code and RESULT = 0; no register is written,
nothing is saved and nothing is latched (00_scope.md R12; 60_exceptions.md R120, R128). -/
def raise (fault : Status) (s : State) : State := { s with rsp := some (formatR fault 0#32) }

/-- A command that never ends (41_selector.md R105 f, R108: with `MAX_ITER = none` a SELECT can loop for ever): the block
stays busy and no response stands on its channel, until reset. -/
def hang (s : State) : State := { s with busy := true, rsp := none }

end Sys2Proof.Machine
end

