-- ==== Sys2Proof/Machine/Channel.lean ====
section
/-! DEFINITION. The two channels and the reset input (30_encoding.md R60 to R62, 70_reset_and_hazards.md R140 to R142): what the
block accepts, how a response leaves it, and what each host event does. There is no program counter and nothing is fetched
from a memory (10_state.md R24): the word that stands on the command channel is the next instruction. -/

namespace Sys2Proof.Machine

/-- `ready` of the command channel: low from the acceptance of a command until its response has been transferred (R62), and
low while reset is held (R141: high "once reset is released"). -/
def cmdReady (s : State) : Bool := !s.busy && !s.rst

/-- `valid` of the command channel. -/
def cmdValid (s : State) : Bool := !s.cmds.isEmpty

/-- `valid` of the response channel. -/
def rspValid (s : State) : Bool := s.rsp.isSome

/-- Acceptance (R60): the word leaves the channel and BUSY rises (10_state.md R31). -/
def accept (rest : List CmdWord) (s : State) : State := { s with busy := true, cmds := rest }

/-- The word the block accepts now, and the block having accepted it; `none` where `valid` and `ready` are not both high. -/
def fetch (s : State) : Option (CmdWord × State) :=
  if cmdReady s then
    match s.cmds with
    | [] => none
    | w :: rest => some (w, accept rest s)
  else none

/-- The transfer of the response that stands on the channel (R61): it goes to the host and the block is idle again. Where
none stands there, nothing happens. -/
def transfer (s : State) : State :=
  match s.rsp with
  | none => s
  | some r => { s with busy := false, rsp := none, taken := s.taken ++ [r] }

/-- Reset (R141, R142): SEEDED and BUSY become 0, a response that was waiting is withdrawn, a command in flight is abandoned.
STATE is unspecified afterwards; the model gives it the value of State.reset (log entry 1, DESIGN CHOICE). The host's side of
the ports is not the block's to change. -/
def enterReset (s : State) : State :=
  { s with state := State.reset.state, seeded := State.reset.seeded, busy := State.reset.busy, rsp := State.reset.rsp,
           rst := true }

/-- What one host event does. -/
def hostEvent (e : HostEvent) (s : State) : State :=
  match e with
  | .present w => { s with cmds := s.cmds ++ [w] }
  | .takeRsp => transfer s
  | .setRst true => enterReset s
  | .setRst false => { s with rst := false }

/-- The host's next move, where the block has nothing to accept. With no event left nothing happens: an idle block keeps its
state indefinitely (60_exceptions.md R136), a response waits for ever (70_reset_and_hazards.md R150). -/
def hostMove (s : State) : State :=
  match s.host with
  | [] => s
  | e :: rest => hostEvent e { s with host := rest }

/-- A word that spells no command (30_encoding.md R67, 60_exceptions.md R121): answered with IllegalCmd, no register read or
written. -/
def answerIllegal (s : State) : Outcome := .next (raise .illegalCmd s)

/-- The word placed in front on the command channel, and the block ready to accept it: reset released, no command in flight.
Nothing else changes. -/
def offer (w : CmdWord) (s : State) : State :=
  { s with busy := false, rsp := none, rst := false, cmds := w :: s.cmds }

end Sys2Proof.Machine
end

