-- ==== Sys2Proof/Config.lean ====
section
/-! DEFINITION. What an implementation of the block fixes: the open parameters of 92_eei_decisions.md ("Open parameters in one
place") and the check of a choice of them. Their default values stand in Machine/Parameters.lean, so that a later correction
of a table costs one line (10_state.md R27). There is no free value in this model: "A model needs no oracle and no draw of a
free value anywhere" (70_reset_and_hazards.md R151). -/

namespace Sys2Proof

/-- The open parameters: fixed for one block, never changed by a step (10_state.md R33). -/
structure Params where
  /-- `MAX_ITER`: the cap on the iterations of one SELECT; `none` is the spec's `none`, no cap (00_scope.md R5). -/
  maxIter : Option Nat
  /-- `RES_TABLE`, the resident species table, index = depth − 1 (10_state.md R27). -/
  resTable : List Byte
  /-- `WAN_TABLE`, the wandering species table (10_state.md R28). -/
  wanTable : List Byte
  deriving DecidableEq, Repr

/-- A legal choice: 26 slots in each table and, where there is a cap, a positive one (00_scope.md R5, 41_selector.md R103). -/
abbrev Params.wf (p : Params) : Prop :=
  p.resTable.length = 26 ∧ p.wanTable.length = 26 ∧ p.maxIter ≠ some 0

end Sys2Proof
end

