-- ==== Sys2Proof/Machine/Parameters.lean ====
section
/-! DEFINITION. Every constant of the block (00_scope.md R5, 10_state.md R25) and the default of its open parameters
(92_eei_decisions.md, "Open parameters in one place"). They are hardwired: no command reads or writes one by name (R25). -/

namespace Sys2Proof.Machine

/-- `MULT`, the multiplier of the recurrence. -/
def mult : Int := 125
/-- `MOD`, the modulus of the recurrence, 0x2AAAAB. -/
def modulus : Int := 2796203
/-- `MASK + 1`: the mask 0x7fffffff keeps the low 31 bits, the residue modulo this number (00_scope.md R9). -/
def maskSpan : Int := 2147483648
/-- `R_A`, the range of the first draw of the depth jitter. -/
def rangeA : Int := 5
/-- `R_B`, the range of its second draw. -/
def rangeB : Int := 6
/-- `BIAS`, subtracted from the jitter sum. -/
def bias : Int := 5
/-- `R_CLAMP`, the range of the redraw in either clamp. -/
def rangeClamp : Int := 5
/-- `LOW_BASE`, added to the redraw in the low clamp. -/
def lowBase : Int := 1
/-- `HIGH_BASE`, added to the redraw in the high clamp. -/
def highBase : Int := 22
/-- `D_MIN`: the low clamp fires below it. -/
def depthMin : Int := 1
/-- `D_MAX`: the high clamp fires above it. -/
def depthMax : Int := 26
/-- `BLANK`, the character code of an empty slot. -/
def blank : Byte := 0x20

/-- `RES_TABLE`, `K_BHISOR_LCA_NYTWFP_GMXVJD` (10_state.md R27). The blank at index 1 is the spec's repair
(90_conflicts.md C3, 92_eei_decisions.md D11). -/
def resTable : List Byte :=
  [0x4B, 0x20, 0x42, 0x48, 0x49, 0x53, 0x4F, 0x52, 0x20, 0x4C, 0x43, 0x41, 0x20,
   0x4E, 0x59, 0x54, 0x57, 0x46, 0x50, 0x20, 0x47, 0x4D, 0x58, 0x56, 0x4A, 0x44]

/-- `WAN_TABLE`, `KEBHISORZ_CAQ_YTW_PUGM_VJ_` (10_state.md R28). -/
def wanTable : List Byte :=
  [0x4B, 0x45, 0x42, 0x48, 0x49, 0x53, 0x4F, 0x52, 0x5A, 0x20, 0x43, 0x41, 0x51,
   0x20, 0x59, 0x54, 0x57, 0x20, 0x50, 0x55, 0x47, 0x4D, 0x20, 0x56, 0x4A, 0x20]

/-- `MAX_ITER`, default 64 (92_eei_decisions.md D9). -/
def maxIter : Option Nat := some 64

/-- The parameters of the block that `step` models: the spec's defaults. -/
def params : Params := ⟨maxIter, resTable, wanTable⟩

end Sys2Proof.Machine
end

