-- ==== Sys2Proof/Machine/Arithmetic.lean ====
section
/-! DEFINITION. The integer arithmetic the rules are written with: truncating division and remainder (00_scope.md R8), the mask
(R9), the recurrence `Step` (40_generator.md R81) and the range-mapped draw `Rnd` (R84). Every function is total on `Int` and
reads no register (R13); nothing wraps (R80). -/

namespace Sys2Proof.Machine

/-- `tdiv(a, n)`, `n > 0`: the quotient rounded toward zero, in the two cases of R8 (`/` of `Int` is the floor for `n > 0`). -/
def tdiv (a n : Int) : Int := if 0 ≤ a then a / n else -((-a) / n)

/-- `trem(a, n) = a - tdiv(a, n) * n` (R8), the only remainder of the recurrence (90_conflicts.md C1). -/
def trem (a n : Int) : Int := a - tdiv a n * n

/-- `v & 0x7fffffff`: the low 31 bits of the two's-complement pattern of `v`, `v mod 2^31` (R9). -/
def maskSum (v : Int) : Int := v % maskSpan

/-- `Step(s)`, one raw draw (R81). -/
def lcgStep (s : Int) : Int := trem (mult * s) modulus

/-- `Rnd(s, r)`: the value and the new state. No draw where `r < 1`; else two draws, first then second (R84). -/
def lcgRnd (s r : Int) : Int × Int :=
  if r < 1 then (0, s)
  else
    let s1 := lcgStep s
    let s2 := lcgStep s1
    (maskSum (s1 + s2) % r, s2)

end Sys2Proof.Machine
end

