-- ==== Sys2Proof/Machine/Flags.lean ====
section
/-! DEFINITION. The one flag of the block, SEEDED (10_state.md R22), and the check every command that reads STATE makes of it
(60_exceptions.md R122). There are no condition codes. -/

namespace Sys2Proof.Machine

/-- `SEEDED <- 1` (40_generator.md R86). Only reset clears it (70_reset_and_hazards.md R141). -/
def setSeeded (s : State) : State := { s with seeded := true }

/-- `if SEEDED = 0: raise NotSeeded`, else what the command does (60_exceptions.md R122). -/
def ifSeeded (s : State) (run : Outcome) : Outcome :=
  if s.seeded then run else .next (raise .notSeeded s)

end Sys2Proof.Machine
end

