-- ==== Sys2Proof/Machine/Operands.lean ====
section
/-! DEFINITION. The operand forms and the conditions on them. There is one operand form, the immediate, and the category bit
(30_encoding.md R65); the decoder hands both over as values. What is left to the machine are the two operand conditions, which
come before the SEEDED check (60_exceptions.md R127). -/

namespace Sys2Proof.Machine

/-- `imm < 1`: the degenerate range of RND (40_generator.md R88) and the invalid level of SELECT (41_selector.md R110). -/
def belowOne (imm : Int) : Bool := decide (imm < 1)

/-- RND's operand condition: with `imm < 1` the command responds 0 at once and reads nothing (40_generator.md R88). -/
def ifRange (imm : Int) (s : State) (run : Outcome) : Outcome :=
  if belowOne imm then .next (respond 0#32 s) else run

/-- SELECT's operand condition: with `imm < 1` it raises InvalidLevel at once (41_selector.md R110, 60_exceptions.md R123). -/
def ifLevel (imm : Int) (s : State) (run : Outcome) : Outcome :=
  if belowOne imm then .next (raise .invalidLevel s) else run

end Sys2Proof.Machine
end

