-- ==== Sys2Proof/Machine/Generator.lean ====
section
/-! DEFINITION. The generator commands SEED, DRAW and RND (40_generator.md R86 to R88). -/

namespace Sys2Proof.Machine

/-- SEED imm (R86): STATE takes the raw operand, SEEDED becomes 1, no draw is made, the response is 0. -/
def execSeed (imm : Int) (s : State) : Outcome :=
  .next (respond 0#32 (setSeeded (writeState imm s)))

/-- DRAW (R87): one draw; the result is the new STATE, signed. -/
def execDraw (s : State) : Outcome :=
  ifSeeded s <|
    let v := lcgStep (readState s)
    .next (respond (toBits32 v) (writeState v s))

/-- RND imm (R88): the operand condition first, then SEEDED, then two draws and the reduced value. -/
def execRnd (imm : Int) (s : State) : Outcome :=
  ifRange imm s <| ifSeeded s <|
    let d := lcgRnd (readState s) imm
    .next (respond (toBits32 d.1) (writeState d.2 s))

end Sys2Proof.Machine
end

