-- ==== Sys2Proof/Machine/Rom.lean ====
section
/-! DEFINITION. The table ROM, the block's one address space (10_state.md R30, 20_memory.md R40): 64 byte addresses, 52 of them
implemented. It is a list of (address, byte) pairs in one canonical form; an address that is not listed is not implemented and
reads as no value (R46). Nothing writes it (R42), so it is built from the parameters and is no field of State (10_state.md R33). -/

namespace Sys2Proof.Machine

/-- The cells of a table laid out from an address on, one byte a slot. -/
def cellsFrom (base : Nat) : List Byte → List Host.Cell
  | [] => []
  | b :: bs => (base, b) :: cellsFrom (base + 1) bs

/-- The whole ROM: `RES_TABLE` from 0x00, `WAN_TABLE` from 0x20 (20_memory.md R40). -/
def rom (p : Params) : List Host.Cell := cellsFrom 0 p.resTable ++ cellsFrom 32 p.wanTable

/-- The byte a list of cells holds at an address; `none` where no cell has it. -/
def lookupCell : List Host.Cell → Nat → Option Byte
  | [], _ => none
  | c :: cs, a => if c.1 = a then some c.2 else lookupCell cs a

/-- The canonical form of a list of cells: addresses strictly rising, all of them above a bound. -/
def cellsRise : Option Nat → List Host.Cell → Bool
  | _, [] => true
  | none, c :: cs => cellsRise (some c.1) cs
  | some a, c :: cs => decide (a < c.1) && cellsRise (some c.1) cs

/-- A memory is in canonical form. An unlisted address reads as no value at all, so no listed byte can equal it. -/
def Memory.wf (m : List Host.Cell) : Bool := cellsRise none m

/-- `MemRead(addr, 1)` (00_scope.md R11): one byte, at any address; the only access there is (20_memory.md R44, R45). -/
def memRead (p : Params) (addr : Nat) : Option Byte := lookupCell (rom p) addr

/-- `cat` as the number the address is formed with: 0 resident, 1 wandering. -/
def catNumber : Category → Nat
  | .resident => 0
  | .wandering => 1

/-- The effective address of a table read, `addr = {cat, idx[4:0]} = 32 * cat + idx` (20_memory.md R40, 41_selector.md R107). -/
def tableAddr (cat : Category) (idx : Int) : Nat := 32 * catNumber cat + idx.toNat

/-- `Table(cat, idx)` (00_scope.md R11): the one load of the block. -/
def tableRead (p : Params) (cat : Category) (idx : Int) : Option Byte := memRead p (tableAddr cat idx)

end Sys2Proof.Machine
end

