-- ==== Sys2Proof/Machine/Selector.lean ====
section
/-! DEFINITION. The selector command SELECT (41_selector.md R100, R103, R104): one iteration, the retry loop and the command,
run as one big step (R105 a). The parameters are an argument; `execSelect` runs it with the block's own. -/

namespace Sys2Proof.Machine

/-- The jitter sum `r10` of one iteration and the state its four draws leave (R100): range 5 first, range 6 second. -/
def selJitter (s : Int) : Int × Int :=
  let a := lcgRnd s rangeA
  let b := lcgRnd a.2 rangeB
  (a.1 + b.1, b.2)

/-- The low clamp (R100): a fresh redraw where the depth is below 1, never a saturation (R105 c). -/
def lowClamp (d s : Int) : Int × Int :=
  if d < depthMin then
    let c := lcgRnd s rangeClamp
    (c.1 + lowBase, c.2)
  else (d, s)

/-- The high clamp (R100), tested on the depth the low clamp left. -/
def highClamp (d s : Int) : Int × Int :=
  if depthMax < d then
    let c := lcgRnd s rangeClamp
    (c.1 + highBase, c.2)
  else (d, s)

/-- `SelIter(s, level, cat)`: the table index and the new state (R100). `cat` does not enter it. -/
def selIter (s level : Int) : Int × Int :=
  let j := selJitter s
  let lo := lowClamp (level + (j.1 - bias)) j.2
  let hi := highClamp lo.1 lo.2
  (hi.1 - 1, hi.2)

/-- How the retry loop ends (R103). -/
inductive SelOutcome where
  /-- A species was found; the state all the draws left. -/
  | found (ch : Byte) (s : Int)
  /-- The iterations ran out, every one on a blank; the state all the draws left. -/
  | exhausted (s : Int)
  /-- The ROM implements no byte at this address (20_memory.md R46). -/
  | hole (addr : Nat)
  deriving DecidableEq, Repr

/-- `SelLoop` with a number of iterations to go (R103): every iteration starts afresh from the state alone, and a blank slot
repeats the whole of it. -/
def selLoop (p : Params) (level : Int) (cat : Category) : Nat → Int → SelOutcome
  | 0, s => .exhausted s
  | n + 1, s =>
    let it := selIter s level
    match tableRead p cat it.1 with
    | none => .hole (tableAddr cat it.1)
    | some ch => if ch = blank then selLoop p level cat n it.2 else .found ch it.2

/-- Iterations after which a loop without a cap is known never to end: every state after the first iteration is one of the
5592405 reduced states, so a loop that has found nothing in this many iterations has come back to a state it was in. -/
@[irreducible] def neverEnds : Nat := 5592406

/-- How many iterations SELECT may make: `MAX_ITER`, or, where there is no cap, as many as decide the loop. -/
def iterationBound : Option Nat → Nat
  | some n => n
  | none => neverEnds

/-- The end of a SELECT whose iterations ran out, given the state their draws left: with a cap it raises Exhausted, STATE
keeping the draws made (R104, 60_exceptions.md R124); without one it never responds (R108, R105 f), and R104 writes STATE only
where the loop ends (log entry 4). -/
def ranOut (cap : Option Nat) (v : Int) (s : State) : State :=
  match cap with
  | some _ => raise .exhausted (writeState v s)
  | none => hang s

/-- SELECT with given parameters (R104): level check, SEEDED check, the loop, and the three ways it ends. -/
def selectWith (p : Params) (imm : Int) (cat : Category) (s : State) : Outcome :=
  ifLevel imm s <| ifSeeded s <|
    match selLoop p imm cat (iterationBound p.maxIter) (readState s) with
    | .found ch v => .next (respond (ch.setWidth 32) (writeState v s))
    | .exhausted v => .next (ranOut p.maxIter v s)
    | .hole a => .fault (.romHole a)

/-- SELECT imm, cat (R104). -/
def execSelect (imm : Int) (cat : Category) (s : State) : Outcome := selectWith params imm cat s

end Sys2Proof.Machine
end

