-- ==== Sys2Proof/Machine/Dispatch.lean ====
section
/-! DEFINITION. The dispatch: one arm per command (30_encoding.md R66). -/

namespace Sys2Proof.Machine

/-- What a command does to a block that has accepted it (00_scope.md R14). -/
def exec (i : Instr) (s : State) : Host.Outcome State Fault Refusal :=
  match i with
  | .seed imm => Sys2Proof.Machine.execSeed imm s
  | .draw => Sys2Proof.Machine.execDraw s
  | .rnd imm => Sys2Proof.Machine.execRnd imm s
  | .select imm cat => Sys2Proof.Machine.execSelect imm cat s

end Sys2Proof.Machine
end

