-- ==== Sys2Proof/Machine/Step.lean ====
section
/-! DEFINITION. One step of the machine (00_scope.md R14): the block accepts the word that stands on the command channel and
executes it start to end, or, where it accepts nothing, the host makes its next move. -/

namespace Sys2Proof.Machine

/-- An accepted word is decoded and executed; a word that spells no command is answered with IllegalCmd (R67). -/
def runWord (w : CmdWord) (s : State) : Outcome :=
  match decode w with
  | some i => exec i s
  | none => answerIllegal s

/-- The step. The block moves before the host: a word that can be accepted is (log entry 3). -/
def step (s : State) : Host.Outcome State Fault Refusal :=
  match fetch s with
  | some (w, s') => runWord w s'
  | none => .next (hostMove s)

/-- `s` with the command of `decodeTableWord nbits w` standing first on the command channel of a ready block. -/
def State.withFetchWord (s : State) (nbits w : Nat) : State := offer (BitVec.ofNat 64 (w % 2 ^ nbits)) s

end Sys2Proof.Machine
end

