-- ==== Sys2Proof/Machine/Assembler.lean ====
section
/-! DEFINITION. The textual form of a command (30_encoding.md R70, R71): one command per line, mnemonics in capitals, integers
in decimal with an optional minus sign or in hexadecimal with `0x`, `#` starts a comment. Lines are lists of characters.
There are no pseudo-instructions: a line is at most one command, and nothing else assembles (R71). What R70 does not say
(spaces, the case of hexadecimal digits, empty lines) is log entry 5. -/

namespace Sys2Proof.Machine

/-- What a line of assembly text is. -/
inductive AsmLine where
  /-- One command the block can be given. -/
  | command (i : Instr)
  /-- Nothing but spaces and a comment. -/
  | empty
  /-- Anything else. -/
  | error
  deriving DecidableEq, Repr

/-! ## From text to commands -/

/-- The value of a digit in a base of at most 16, small or capital letters. -/
def digitValue (base : Nat) (c : Char) : Option Nat :=
  let v :=
    if '0' ≤ c ∧ c ≤ '9' then c.toNat - '0'.toNat
    else if 'a' ≤ c ∧ c ≤ 'f' then c.toNat - 'a'.toNat + 10
    else if 'A' ≤ c ∧ c ≤ 'F' then c.toNat - 'A'.toNat + 10
    else 16
  if v < base then some v else none

/-- The number a list of digits spells after those already read, most significant first. -/
def digitsValue (base : Nat) : Nat → List Char → Option Nat
  | acc, [] => some acc
  | acc, c :: cs =>
    match digitValue base c with
    | some v => digitsValue base (base * acc + v) cs
    | none => none

/-- A natural number: at least one digit, all of them digits of the base. -/
def natOfDigits (base : Nat) : List Char → Option Nat
  | [] => none
  | c :: cs => digitsValue base 0 (c :: cs)

/-- An integer of R70: decimal with an optional minus sign, or hexadecimal with `0x`. -/
def intOfChars : List Char → Option Int
  | '0' :: 'x' :: ds => (natOfDigits 16 ds).map Int.ofNat
  | '-' :: ds => (natOfDigits 10 ds).map fun n => -Int.ofNat n
  | ds => (natOfDigits 10 ds).map Int.ofNat

/-- A line without its comment. -/
def stripComment : List Char → List Char
  | [] => []
  | c :: cs => if c = '#' then [] else c :: stripComment cs

/-- The line's tokens, given the token being read: spaces and tabs end a token, a comma is a token of its own. -/
def tokensFrom : List Char → List Char → List (List Char)
  | cur, [] => if cur.isEmpty then [] else [cur]
  | cur, c :: cs =>
    if c = ' ' ∨ c = '\t' then (if cur.isEmpty then [] else [cur]) ++ tokensFrom [] cs
    else if c = ',' then (if cur.isEmpty then [] else [cur]) ++ [','] :: tokensFrom [] cs
    else tokensFrom (cur ++ [c]) cs

def seedText : List Char := ['S', 'E', 'E', 'D']
def drawText : List Char := ['D', 'R', 'A', 'W']
def rndText : List Char := ['R', 'N', 'D']
def selectText : List Char := ['S', 'E', 'L', 'E', 'C', 'T']
def resText : List Char := ['r', 'e', 's']
def wandText : List Char := ['w', 'a', 'n', 'd']

/-- The category a token names: `res` or `wand`. -/
def categoryOfChars (t : List Char) : Option Category :=
  if t = resText then some .resident else if t = wandText then some .wandering else none

/-- The command a list of tokens spells, whatever its operand. -/
def commandOfTokens : List (List Char) → Option Instr
  | [m] => if m = drawText then some .draw else none
  | [m, n] =>
    match intOfChars n with
    | some v => if m = seedText then some (.seed v) else if m = rndText then some (.rnd v) else none
    | none => none
  | [m, n, comma, c] =>
    match intOfChars n, categoryOfChars c with
    | some v, some cat => if m = selectText ∧ comma = [','] then some (.select v cat) else none
    | _, _ => none
  | _ => none

/-- A line of assembly text. An operand outside `-2147483648 .. 2147483647` is an error (R70). -/
def assembleLine (line : List Char) : AsmLine :=
  match tokensFrom [] (stripComment line) with
  | [] => .empty
  | ts =>
    match commandOfTokens ts with
    | some i => if wellFormed i then .command i else .error
    | none => .error

/-! ## From commands to text -/

/-- An integer in decimal, with a minus sign where it is negative. -/
def charsOfInt (v : Int) : List Char :=
  if v < 0 then '-' :: Nat.toDigits 10 v.natAbs else Nat.toDigits 10 v.natAbs

/-- An integer in hexadecimal with `0x`, its letters capital or small. A negative one has no such spelling (log entry 5) and
stays decimal. -/
def hexOfInt (capital : Bool) (v : Int) : List Char :=
  if v < 0 then charsOfInt v
  else '0' :: 'x' :: (Nat.toDigits 16 v.toNat).map fun c => if capital then c.toUpper else c

/-- A command as R70 writes it, given how an integer is spelled. -/
def textWith (spell : Int → List Char) : Instr → List Char
  | .seed imm => seedText ++ ' ' :: spell imm
  | .draw => drawText
  | .rnd imm => rndText ++ ' ' :: spell imm
  | .select imm .resident => selectText ++ ' ' :: spell imm ++ ',' :: ' ' :: resText
  | .select imm .wandering => selectText ++ ' ' :: spell imm ++ ',' :: ' ' :: wandText

/-- A command with its operand in decimal. -/
def asmText (i : Instr) : List Char := textWith charsOfInt i

/-- A command with its operand in hexadecimal. -/
def asmTextHex (capital : Bool) (i : Instr) : List Char := textWith (hexOfInt capital) i

end Sys2Proof.Machine
end

