-- ==== Sys2Proof/Safety.lean ====
section
/-! DEFINITION. The terms claims about the machine are stated in: what a legal state is, what a good response is, what a run
without a fault is, and the iterations of a SELECT counted from outside. -/

namespace Sys2Proof.Machine

/-- A response word the block may produce (30_encoding.md R64, 60_exceptions.md R120): STATUS at most 0x04, bits 55:32 zero,
RESULT zero unless STATUS is OK. -/
abbrev RspWf (r : RspWord) : Prop :=
  (rspStatus r).toNat ≤ 4 ∧ rspZero r = 0#24 ∧ (rspStatus r ≠ 0#8 → rspResult r = 0#32)

/-- The states a run can be in. It rules out only what no run reaches: a response without a command in flight, a command in
flight without one (the parameters have a cap, 70_reset_and_hazards.md R150, and a command is one big step, log entry 6), a
malformed response, a block that is busy or seeded while reset is held (R141 and log entry 8). -/
structure Inv (s : State) : Prop where
  /-- BUSY is 1 exactly while a response waits: a command is one indivisible step (20_memory.md R49; log entry 6, DEDUCED). -/
  busy_iff : s.busy = s.rsp.isSome
  rsp_wf : ∀ r, s.rsp = some r → RspWf r
  taken_wf : ∀ r ∈ s.taken, RspWf r
  /-- Reset leaves the block idle and unseeded (R141), and nothing is accepted while it is held (log entry 8, DEDUCED). -/
  held : s.rst = true → s.busy = false ∧ s.seeded = false

/-- The block can accept a command (30_encoding.md R62). -/
abbrev Ready (s : State) : Prop := s.busy = false ∧ s.rst = false

/-- Nothing is accepted in this state: the block is busy, or held in reset, or no word stands on the command channel. -/
abbrev AcceptsNothing (s : State) : Prop := s.busy = true ∨ s.rst = true ∨ s.cmds = []

/-- A reduced state: `|v| ≤ MOD − 1` (10_state.md R23 a). -/
abbrev IsReduced (v : Int) : Prop := -2796202 ≤ v ∧ v ≤ 2796202

/-- What of a state can make a difference to any response: STATE counts only once the block is seeded (10_state.md R32). -/
def visible (s : State) : State := { s with state := if s.seeded then s.state else 0#32 }

/-- The response a state shows, as its STATUS; 0xFF, which is no status, where it shows none. -/
def shownStatus (s : State) : BitVec 8 :=
  match s.rsp with
  | some r => rspStatus r
  | none => 0xFF#8

/-- No response the host took reports a fault (92_eei_decisions.md D6: "so that a claim can require 'no fault response'"). -/
def NoFaultTaken (s : State) : Prop := ∀ r ∈ s.taken, rspStatus r = 0#8

/-- The state of the generator after `k` iterations of SELECT at a level, from a state (41_selector.md R100, R103). -/
def iterState (level : Int) : Nat → Int → Int
  | 0, s => s
  | k + 1, s => iterState level k (selIter s level).2

/-- The table index that iteration `k + 1` computes. -/
def iterIndex (level : Int) (k : Nat) (s : Int) : Int := (selIter (iterState level k s) level).1

/-- The slot of a category's table that iteration `k + 1` reads (41_selector.md R103). -/
def slotAt (p : Params) (level : Int) (cat : Category) (k : Nat) (s : Int) : Option Byte :=
  tableRead p cat (iterIndex level k s)

/-- The table of a category. -/
def tableOf (p : Params) : Category → List Byte
  | .resident => p.resTable
  | .wandering => p.wanTable

/-- The nine (level, table) pairs at which the zero state selects a blank (41_selector.md R108). -/
def zeroStatePairs : List (Int × Category) :=
  [(7, .resident), (14, .resident), (18, .resident), (25, .resident),
   (15, .wandering), (19, .wandering), (23, .wandering), (28, .wandering), (31, .wandering)]

end Sys2Proof.Machine
end

