-- ==== Sys2Proof/Certificates/Slice0/Obligations.lean ====
section
/-! DEFINITION. The statements for the provers, from the numbered rules of spec/. Literal numbers are the spec's own, not the
model's names for them, wherever a rule gives them. -/

section
open Sys2Proof Sys2Proof.Machine

/-! ## Numbers (00_scope.md) -/

/-- R7: `sext_32` and `to_bits_32` are the two readings of a 32-bit pattern and inverse to each other. -/
def Obligations.SignedPatternsAndIntegersAgree : Prop :=
  (∀ b : Word, sext32 b = if b.toNat < 2147483648 then (b.toNat : Int) else (b.toNat : Int) - 4294967296) ∧
  (∀ b : Word, Fits32 (sext32 b) ∧ toBits32 (sext32 b) = b) ∧
  (∀ v : Int, Fits32 v → sext32 (toBits32 v) = v ∧
    ((toBits32 v).toNat : Int) = if 0 ≤ v then v else 4294967296 + v)

/-- R8: the quotient is rounded toward zero, the remainder has the sign of the dividend or is zero, and is below `n`. -/
def Obligations.TruncatingDivisionAndRemainder : Prop :=
  (∀ a n : Int, 0 < n →
    tdiv a n = Int.tdiv a n ∧ trem a n = Int.tmod a n ∧ trem a n = a - tdiv a n * n ∧
    -n < trem a n ∧ trem a n < n ∧ (0 ≤ a → 0 ≤ trem a n) ∧ (a ≤ 0 → trem a n ≤ 0)) ∧
  trem 7 3 = 1 ∧ trem (-7) 3 = -1 ∧ trem (-6) 3 = 0 ∧ trem 0 3 = 0

/-- R9: the mask is the low 31 bits of the two's-complement pattern of any width of 32 bits or more, which is `v mod 2^31`;
and where range reduction divides, truncating and floored remainder agree. -/
def Obligations.MaskKeepsTheLow31Bits : Prop :=
  (∀ (n : Nat) (v : Int), 32 ≤ n →
    ((BitVec.ofInt n v &&& BitVec.ofNat n 0x7fffffff).toNat : Int) = maskSum v) ∧
  (∀ v : Int, 0 ≤ maskSum v ∧ maskSum v < 2147483648 ∧ ∃ k : Int, v - maskSum v = k * 2147483648) ∧
  (∀ m r : Int, 0 ≤ m → 1 ≤ r → m % r = trem m r)

/-! ## The recurrence and the range-mapped draw (40_generator.md) -/

/-- R80 a, b, c, d, e: no intermediate value outgrows the widths the rule gives. -/
def Obligations.ArithmeticStaysWithinItsWidths : Prop :=
  (∀ b : Word, -268435456000 ≤ 125 * sext32 b ∧ 125 * sext32 b ≤ 268435456000) ∧
  (∀ v : Int, IsReduced v → -349525250 ≤ 125 * v ∧ 125 * v ≤ 349525250) ∧
  (∀ s : Int, -5592404 ≤ lcgStep s + lcgStep (lcgStep s) ∧ lcgStep s + lcgStep (lcgStep s) ≤ 5592404) ∧
  (∀ v : Int, 0 ≤ maskSum v ∧ maskSum v ≤ 2147483647) ∧
  (∀ s level : Int, 1 ≤ level → level ≤ 2147483647 →
    0 ≤ (selJitter s).1 ∧ (selJitter s).1 ≤ 9 ∧
    -4 ≤ level + (selJitter s).1 - 5 ∧ level + (selJitter s).1 - 5 ≤ 2147483651)

/-- 40_generator.md section 2: the equation of `Step` (R81) and the spec's own inferences from it, R82 (a) to (g). -/
def Obligations.StepLaws : Prop :=
  (∀ s : Int, lcgStep s = Int.tmod (125 * s) 2796203) ∧
  (∀ s : Int, IsReduced (lcgStep s)) ∧
  (∀ s : Int, lcgStep (-s) = -lcgStep s) ∧
  (∀ s : Int, 0 ≤ s → lcgStep s = (125 * s) % 2796203 ∧ 0 ≤ lcgStep s) ∧
  (∀ s : Int, (0 < s → 0 ≤ lcgStep s) ∧ (s < 0 → lcgStep s ≤ 0)) ∧ lcgStep 0 = 0 ∧
  (∀ s : Int, lcgStep s = 0 ↔ (2796203 : Int) ∣ s) ∧
  (∀ s : Int, lcgStep s = lcgStep (trem s 2796203)) ∧
  Set.BijOn lcgStep (Set.Icc 1 2796202) (Set.Icc 1 2796202) ∧
  Set.BijOn lcgStep (Set.Icc (-2796202) (-1)) (Set.Icc (-2796202) (-1))

/-- 40_generator.md section 2, the spec's own inference R83: from a non-zero reduced state the draws return to it after exactly every 2796202 of them, on the way they meet every
non-zero value of its sign, and the results of RND with a fixed range repeat after 1398101 calls. -/
def Obligations.DrawsHaveFullPeriod : Prop :=
  ∀ s : Int, IsReduced s → s ≠ 0 →
    (∀ k : Nat, lcgStep^[k] s = s ↔ 2796202 ∣ k) ∧
    (∀ t : Int, IsReduced t → 0 < s * t → ∃ k : Nat, k < 2796202 ∧ lcgStep^[k] s = t) ∧
    (∀ r : Int, 1 ≤ r → (fun v => (lcgRnd v r).2)^[1398101] s = s)

/-- 40_generator.md section 3: the equation of `Rnd` (R84) and the spec's own inferences from it, R85 (a) to (g). -/
def Obligations.RndLaws : Prop :=
  (∀ s r : Int, r < 1 → lcgRnd s r = (0, s)) ∧
  (∀ s r : Int, 1 ≤ r →
    lcgRnd s r = ((lcgStep s + lcgStep (lcgStep s)) % 2147483648 % r, lcgStep (lcgStep s)) ∧
    0 ≤ (lcgRnd s r).1 ∧ (lcgRnd s r).1 ≤ r - 1) ∧
  (∀ s : Int, lcgRnd s 1 = (0, lcgStep (lcgStep s))) ∧
  (∀ s r : Int, 0 ≤ s → 5592404 < r → (lcgRnd s r).1 = lcgStep s + lcgStep (lcgStep s)) ∧
  (∀ s : Int, 0 ≤ s →
    maskSum (lcgStep s + lcgStep (lcgStep s)) = lcgStep s + lcgStep (lcgStep s) ∧
    lcgStep s + lcgStep (lcgStep s) ≤ 5592404) ∧
  (∀ s : Int, s < 0 → ¬ (2796203 : Int) ∣ s →
    maskSum (lcgStep s + lcgStep (lcgStep s)) = 2147483648 + (lcgStep s + lcgStep (lcgStep s)) ∧
    2141891244 ≤ maskSum (lcgStep s + lcgStep (lcgStep s)) ∧
    maskSum (lcgStep s + lcgStep (lcgStep s)) ≤ 2147483647) ∧
  (∀ s r : Int, (2796203 : Int) ∣ s → 1 ≤ r → lcgRnd s r = (0, 0)) ∧
  (∀ s r : Int, 1 ≤ r → lcgRnd s r = lcgRnd (trem s 2796203) r)

/-! ## Encoding (30_encoding.md) -/

/-- 30_encoding.md section 5, the spec's own inference R72 from R63 and R66: encoding then decoding a legal command gives it back, decoding then encoding a legal word gives it back, and two
different legal words decode to different commands. Every word decodes to a command or is illegal. -/
def Obligations.DecodeAndEncodeAgree : Prop :=
  (∀ i : Instr, WellFormed i → decode (encode i) = some i) ∧
  (∀ (w : CmdWord) (i : Instr), decode w = some i → WellFormed i ∧ encode i = w) ∧
  (∀ (w w' : CmdWord) (i : Instr), decode w = some i → decode w' = some i → w = w')

/-- R67, R121: exactly the words of R67's cases (a) to (d) spell no command, and a ready block accepts such a word like any
other, reads and changes no register, seeded or not, and answers IllegalCmd with RESULT 0. -/
def Obligations.IllegalWordsAreTheFourCasesAndAreAnswered : Prop :=
  ∀ w : CmdWord,
    (decode w = none ↔
      (w.extractLsb' 56 8 = 0x00#8 ∨ 5 ≤ (w.extractLsb' 56 8).toNat) ∨
      w.extractLsb' 33 23 ≠ 0#23 ∨
      ((w.extractLsb' 56 8 = 0x01#8 ∨ w.extractLsb' 56 8 = 0x02#8 ∨ w.extractLsb' 56 8 = 0x03#8) ∧
        w.extractLsb' 32 1 = 1#1) ∨
      (w.extractLsb' 56 8 = 0x02#8 ∧ w.extractLsb' 0 32 ≠ 0#32)) ∧
    (∀ (s : State) (rest : List CmdWord), Ready s → s.cmds = w :: rest → decode w = none →
      step s = .next { s with busy := true, cmds := rest, rsp := some 0x0100000000000000#64 })

/-- R65, R66: a word selects a row's command exactly when `(w & mask) = match`, with `imm = sext_32(cmd[31:0])` and
`cat = cmd[32]`. -/
def Obligations.RowsSelectTheirCommands : Prop :=
  ∀ w : CmdWord,
    (∀ imm, decode w = some (.seed imm) ↔
      w &&& 0xFFFFFFFF00000000#64 = 0x0100000000000000#64 ∧ imm = (w.extractLsb' 0 32).toInt) ∧
    (decode w = some .draw ↔ w &&& 0xFFFFFFFFFFFFFFFF#64 = 0x0200000000000000#64) ∧
    (∀ imm, decode w = some (.rnd imm) ↔
      w &&& 0xFFFFFFFF00000000#64 = 0x0300000000000000#64 ∧ imm = (w.extractLsb' 0 32).toInt) ∧
    (∀ imm cat, decode w = some (.select imm cat) ↔
      w &&& 0xFFFFFFFE00000000#64 = 0x0400000000000000#64 ∧ imm = (w.extractLsb' 0 32).toInt ∧
        cat = if w.getLsbD 32 then .wandering else .resident)

/-- 30_encoding.md section 8: its worked encodings decode to the commands it names, and the all-zero word to none (R67). -/
def Obligations.WorkedEncodingsDecode : Prop :=
  decode 0x010000000000002A#64 = some (.seed 42) ∧ decode 0x01000000FFFFFFFF#64 = some (.seed (-1)) ∧
  decode 0x0200000000000000#64 = some .draw ∧
  decode 0x0300000000000005#64 = some (.rnd 5) ∧ decode 0x03000000FFFFFFF9#64 = some (.rnd (-7)) ∧
  decode 0x0400000000000001#64 = some (.select 1 .resident) ∧
  decode 0x040000010000001A#64 = some (.select 26 .wandering) ∧
  decode 0x0000000000000000#64 = none

/-- R70, R71 (what R70 does not say, the case of hexadecimal digits among it, is the model's choice, log entry 5): the text of a
command, its operand in decimal or, where it is not negative, in hexadecimal with `0x`, assembles to that command, with or without
a `#` comment behind it; a comment alone is no command; and whatever assembles is one command the block can be given. -/
def Obligations.AssemblyTextRoundTrip : Prop :=
  (∀ (i : Instr) (text note : List Char), WellFormed i →
    text = asmText i ∨ text = asmTextHex false i ∨ text = asmTextHex true i →
    assembleLine text = .command i ∧ assembleLine (text ++ '#' :: note) = .command i ∧
    assembleLine (text ++ ' ' :: '#' :: note) = .command i) ∧
  (∀ note : List Char, assembleLine ('#' :: note) = .empty) ∧
  (∀ (line : List Char) (i : Instr), assembleLine line = .command i → WellFormed i)

/-- R64: the fields of a response word, and the five status codes (R120). -/
def Obligations.ResponseWordFields : Prop :=
  (∀ (st : Status) (result : Word),
    (formatR st result).extractLsb' 56 8 = st.code ∧ (formatR st result).extractLsb' 32 24 = 0#24 ∧
    (formatR st result).extractLsb' 0 32 = result) ∧
  Status.ok.code = 0#8 ∧ Status.illegalCmd.code = 1#8 ∧ Status.notSeeded.code = 2#8 ∧
  Status.invalidLevel.code = 3#8 ∧ Status.exhausted.code = 4#8

/-! ## The table ROM (10_state.md, 20_memory.md) -/

/-- R27, R28: the two tables, slot by slot, as characters of their codes, blank as the space. -/
def Obligations.TablesAreTheSpecs : Prop :=
  params.resTable.map (fun b => Char.ofNat b.toNat) =
    ['K', ' ', 'B', 'H', 'I', 'S', 'O', 'R', ' ', 'L', 'C', 'A', ' ', 'N', 'Y', 'T', 'W', 'F', 'P', ' ', 'G', 'M', 'X', 'V',
     'J', 'D'] ∧
  params.wanTable.map (fun b => Char.ofNat b.toNat) =
    ['K', 'E', 'B', 'H', 'I', 'S', 'O', 'R', 'Z', ' ', 'C', 'A', 'Q', ' ', 'Y', 'T', 'W', ' ', 'P', 'U', 'G', 'M', ' ', 'V',
     'J', ' '] ∧ blank = 0x20#8

/-- 10_state.md section 6, the spec's own inference R29 (b) to (e) from R27 and R28: the shared letters sit at the same index in
both tables, the reaches without a blank, the blanks in the clamps' reaches, and no letter twice; and the default parameters
(R5, D9) are a legal choice with a cap of 64. -/
def Obligations.TableProperties : Prop :=
  (∀ i ∈ [0, 2, 3, 4, 5, 6, 7, 10, 11, 14, 15, 16, 18, 20, 21, 23, 24], params.resTable[i]? = params.wanTable[i]?) ∧
  (∀ i ∈ [20, 21, 22, 23, 24, 25], params.resTable[i]? ≠ some 0x20#8) ∧
  (∀ i ∈ [0, 1, 2, 3, 4, 5, 6, 7, 8], params.wanTable[i]? ≠ some 0x20#8) ∧
  params.resTable[1]? = some 0x20#8 ∧ params.wanTable[22]? = some 0x20#8 ∧ params.wanTable[25]? = some 0x20#8 ∧
  (params.resTable.filter (· ≠ 0x20#8)).Nodup ∧ (params.wanTable.filter (· ≠ 0x20#8)).Nodup ∧
  params.wf ∧ params.maxIter = some 64

/-- R40: the address map, at every address, for every legal choice of the parameters. That an address R40 calls not implemented
reads as no value, and the canonical form of the list, are the model's choice (log entry 2, DESIGN CHOICE) after R46, which is the
spec's own inference and calls such a read not defined. -/
def Obligations.RomMapIsTheSpecs : Prop :=
  ∀ p : Params, p.wf → Memory.wf (rom p) = true ∧
    (∀ addr : Nat, memRead p addr =
      if addr < 26 then p.resTable[addr]? else if 32 ≤ addr ∧ addr < 58 then p.wanTable[addr - 32]? else none) ∧
    (∀ idx : Int, 0 ≤ idx → idx ≤ 25 →
      tableRead p .resident idx = p.resTable[idx.toNat]? ∧ tableRead p .wandering idx = p.wanTable[idx.toNat]?)

/-! ## The commands (40_generator.md, 41_selector.md) -/

/-- R86: SEED writes the raw operand into STATE, sets SEEDED and responds 0, whatever STATE and SEEDED were: what came before it
has no effect. A multiple of 2796203 leaves a state from which every draw is 0. -/
def Obligations.SeedCommand : Prop :=
  ∀ (imm : Int) (s : State), WellFormed (.seed imm) →
    ∃ t, exec (.seed imm) s = .next t ∧ t.state.toInt = imm ∧ t.seeded = true ∧ t.rsp = some 0x0000000000000000#64 ∧
      t = { s with state := t.state, seeded := t.seeded, rsp := t.rsp } ∧
      (∀ (v : Word) (b : Bool), exec (.seed imm) { s with state := v, seeded := b } = .next t) ∧
      ((2796203 : Int) ∣ imm → lcgStep t.state.toInt = 0)

/-- R87: DRAW raises NotSeeded on an unseeded block; else it replaces STATE by `Step(STATE)` and responds it, signed. -/
def Obligations.DrawCommand : Prop :=
  ∀ s : State,
    (s.seeded = false → exec .draw s = .next { s with rsp := some 0x0200000000000000#64 }) ∧
    (s.seeded = true →
      ∃ t, exec .draw s = .next t ∧ t.state.toInt = Int.tmod (125 * s.state.toInt) 2796203 ∧ IsReduced t.state.toInt ∧
        t.rsp = some (0#32 ++ t.state) ∧ t = { s with state := t.state, rsp := t.rsp })

/-- R88: RND with `imm < 1` responds 0 and touches nothing, seeded or not; else it raises NotSeeded on an unseeded block; else
it makes two draws and responds their masked sum modulo the range, which for the largest range is the masked sum itself. -/
def Obligations.RndCommand : Prop :=
  ∀ (imm : Int) (s : State), WellFormed (.rnd imm) →
    (imm < 1 → exec (.rnd imm) s = .next { s with rsp := some 0x0000000000000000#64 }) ∧
    (1 ≤ imm → s.seeded = false → exec (.rnd imm) s = .next { s with rsp := some 0x0200000000000000#64 }) ∧
    (1 ≤ imm → s.seeded = true →
      ∃ (t : State) (a b : Int), exec (.rnd imm) s = .next t ∧
        a = Int.tmod (125 * s.state.toInt) 2796203 ∧ b = Int.tmod (125 * a) 2796203 ∧ t.state.toInt = b ∧
        (∃ v : Word, t.rsp = some (0#32 ++ v) ∧ (v.toNat : Int) = (a + b) % 2147483648 % imm ∧
          (imm = 2147483647 → (v.toNat : Int) = (a + b) % 2147483648)) ∧
        t = { s with state := t.state, rsp := t.rsp })

/-- R100: one iteration, line for line: range 5 first, range 6 second, the low clamp, the high clamp on the depth it left. -/
def Obligations.SelIterFollowsTheAlgorithm : Prop :=
  ∀ s level : Int,
    let a := lcgRnd s 5
    let b := lcgRnd a.2 6
    let d := level + (a.1 + b.1 - 5)
    let c := lcgRnd b.2 5
    let lo := if d < 1 then (c.1 + 1, c.2) else (d, b.2)
    let c' := lcgRnd lo.2 5
    let hi := if lo.1 > 26 then (c'.1 + 22, c'.2) else lo
    selIter s level = (hi.1 - 1, hi.2)

/-- 41_selector.md section 1: what one iteration guarantees, the spec's own inferences R101 (a) to (g) from R100. -/
def Obligations.SelIterGuarantees : Prop :=
  ∀ s level : Int, 1 ≤ level →
    let d := level + ((selJitter s).1 - 5)
    (0 ≤ (selIter s level).1 ∧ (selIter s level).1 ≤ 25) ∧
    (1 ≤ d → d ≤ 26 → (selIter s level).2 = lcgStep^[4] s) ∧
    (d < 1 ∨ 26 < d → (selIter s level).2 = lcgStep^[6] s) ∧
    (d < 1 → level ≤ 5 ∧ (selIter s level).1 ≤ 4) ∧ (26 < d → 23 ≤ level ∧ 21 ≤ (selIter s level).1) ∧
    (32 ≤ level → 26 < d ∧ selIter s level = selIter s 32) ∧
    (level ≤ 5 → (selIter s level).1 ≤ level + 3) ∧
    (6 ≤ level → level ≤ 22 → level - 6 ≤ (selIter s level).1 ∧ (selIter s level).1 ≤ level + 3) ∧
    (23 ≤ level → level ≤ 27 → level - 6 ≤ (selIter s level).1) ∧
    (28 ≤ level → 21 ≤ (selIter s level).1) ∧
    d ≤ level + 4

/-- R103: the loop finds the first slot that is not blank, within the iterations it has, or runs out with every slot blank;
the draws of rejected iterations are kept. -/
def Obligations.SelLoopFindsTheFirstSpecies : Prop :=
  ∀ (p : Params) (level : Int) (cat : Category) (n : Nat) (s : Int), p.wf → 1 ≤ level →
    (∀ (ch : Byte) (v : Int), selLoop p level cat n s = .found ch v ↔
      ∃ k, k < n ∧ (∀ j, j < k → slotAt p level cat j s = some 0x20#8) ∧ slotAt p level cat k s = some ch ∧
        ch ≠ 0x20#8 ∧ v = iterState level (k + 1) s) ∧
    (∀ v : Int, selLoop p level cat n s = .exhausted v ↔
      (∀ j, j < n → slotAt p level cat j s = some 0x20#8) ∧ v = iterState level n s) ∧
    (∀ addr, selLoop p level cat n s ≠ .hole addr)

/-- R104, R110, R123: SELECT in its four cases: InvalidLevel, NotSeeded, a species of the chosen table found at iteration
`k + 1` of at most 64, Exhausted after 64 blanks; and the draws `k` iterations make. Every case answers a next state. -/
def Obligations.SelectCommand : Prop :=
  ∀ (imm : Int) (cat : Category) (s : State), WellFormed (.select imm cat) →
    (imm < 1 → exec (.select imm cat) s = .next { s with rsp := some 0x0300000000000000#64 }) ∧
    (1 ≤ imm → s.seeded = false → exec (.select imm cat) s = .next { s with rsp := some 0x0200000000000000#64 }) ∧
    (∀ (k : Nat) (ch : Byte), 1 ≤ imm → s.seeded = true → k < 64 →
      (∀ j, j < k → slotAt params imm cat j s.state.toInt = some 0x20#8) →
      slotAt params imm cat k s.state.toInt = some ch → ch ≠ 0x20#8 →
      ∃ t, exec (.select imm cat) s = .next t ∧ t.state.toInt = iterState imm (k + 1) s.state.toInt ∧
        ch ∈ tableOf params cat ∧ t.rsp = some (0#56 ++ ch) ∧ t = { s with state := t.state, rsp := t.rsp }) ∧
    (1 ≤ imm → s.seeded = true → (∀ j, j < 64 → slotAt params imm cat j s.state.toInt = some 0x20#8) →
      ∃ t, exec (.select imm cat) s = .next t ∧ t.state.toInt = iterState imm 64 s.state.toInt ∧
        t.rsp = some 0x0400000000000000#64 ∧ t = { s with state := t.state, rsp := t.rsp }) ∧
    (∀ (k : Nat) (v : Int), ∃ n, 4 * k ≤ n ∧ n ≤ 6 * k ∧ n % 2 = 0 ∧ iterState imm k v = lcgStep^[n] v)

/-- R104 (Result): a seeded SELECT at a level of 1 or more answers, and either its response is Exhausted or it carries a
species of the chosen table, never the blank. -/
def Obligations.SelectAnswersASpeciesOfItsTable : Prop :=
  ∀ (imm : Int) (cat : Category) (s : State), 1 ≤ imm → s.seeded = true →
    ∃ t, exec (.select imm cat) s = .next t ∧
      (t.rsp = some 0x0400000000000000#64 ∨
       ∃ ch, ch ∈ tableOf params cat ∧ ch ≠ 0x20#8 ∧ t.rsp = some (0#56 ++ ch))

/-- 41_selector.md section 6, the spec's own inference R108: from a multiple of 2796203 the outcome is fixed by level and table: Exhausted at the nine pairs, else the species at
the one index every iteration computes; STATE is 0 afterwards. -/
def Obligations.ZeroStateSelections : Prop :=
  ∀ (imm : Int) (cat : Category) (s : State), WellFormed (.select imm cat) → 1 ≤ imm → s.seeded = true →
    (2796203 : Int) ∣ s.state.toInt →
    let idx : Nat := if imm ≤ 5 then 0 else if imm ≤ 31 then (imm - 6).toNat else 21
    if (imm, cat) ∈ zeroStatePairs then
      (tableOf params cat)[idx]? = some 0x20#8 ∧
      exec (.select imm cat) s = .next { s with state := 0#32, rsp := some 0x0400000000000000#64 }
    else
      ∃ ch, (tableOf params cat)[idx]? = some ch ∧ ch ≠ 0x20#8 ∧
        exec (.select imm cat) s = .next { s with state := 0#32, rsp := some (0#56 ++ ch) }

/-- 41_selector.md section 6, the spec's own inference R109 (the entries 1 that R29 c gives by hand): resident from level 26 up and wandering up to level 5 end in one iteration,
from every state. -/
def Obligations.OneIterationSelections : Prop :=
  ∀ (imm : Int) (cat : Category) (s : State), WellFormed (.select imm cat) → 1 ≤ imm → s.seeded = true →
    (cat = .resident ∧ 26 ≤ imm) ∨ (cat = .wandering ∧ imm ≤ 5) →
    ∃ ch t, (tableOf params cat)[(selIter s.state.toInt imm).1.toNat]? = some ch ∧ ch ≠ 0x20#8 ∧
      exec (.select imm cat) s = .next t ∧ t.state.toInt = (selIter s.state.toInt imm).2 ∧ t.rsp = some (0#56 ++ ch) ∧
      t = { s with state := t.state, rsp := t.rsp }

/-- 92_eei_decisions.md D9 and the spec's own inference in R109: where a SELECT with any cap finds a species, every larger cap, and no
cap (decided by the model after `neverEnds` iterations, log entry 4), gives the very same outcome. -/
def Obligations.LargerCapsChangeNothing : Prop :=
  ∀ (p : Params) (n : Nat) (cap : Option Nat) (imm : Int) (cat : Category) (s t : State),
    p.wf → 1 ≤ imm → s.seeded = true → (∀ m, cap = some m → n ≤ m) →
    selectWith { p with maxIter := some n } imm cat s = .next t → shownStatus t = 0#8 →
    selectWith { p with maxIter := cap } imm cat s = .next t

/-- R105 f, R108 (how the model decides an endless loop, and what it leaves in STATE, is log entry 4): with `MAX_ITER = none` a seeded SELECT either ends with the first species, or never responds (the block stays
busy with no response), and the latter exactly when every iteration for ever lands on a blank. -/
def Obligations.UncappedSelectNeverRespondsWhenItNeverEnds : Prop :=
  ∀ (p : Params) (imm : Int) (cat : Category) (s : State), p.wf → p.maxIter = none → 1 ≤ imm → s.seeded = true →
    ∃ t, selectWith p imm cat s = .next t ∧
      ((∀ k, slotAt p imm cat k s.state.toInt = some 0x20#8) ↔ t.rsp = none) ∧
      (t.rsp = none → t.busy = true ∧ t.cmds = s.cmds ∧ t.seeded = true) ∧
      (∀ (k : Nat) (ch : Byte), (∀ j, j < k → slotAt p imm cat j s.state.toInt = some 0x20#8) →
        slotAt p imm cat k s.state.toInt = some ch → ch ≠ 0x20#8 →
        t.rsp = some (0#56 ++ ch) ∧ t.state.toInt = iterState imm (k + 1) s.state.toInt)

/-- R20, R87, R88, R104 and the spec's own inference R101 c: STATE moves by whole draws: one for DRAW, two for RND with a range, an
even number between 4 and 384 (6 times the default cap) for a seeded SELECT. -/
def Obligations.CommandsAdvanceByDraws : Prop :=
  ∀ s : State, s.seeded = true →
    (∃ t, exec .draw s = .next t ∧ t.state.toInt = lcgStep s.state.toInt) ∧
    (∀ imm : Int, 1 ≤ imm → ∃ t, exec (.rnd imm) s = .next t ∧ t.state.toInt = lcgStep^[2] s.state.toInt) ∧
    (∀ (imm : Int) (cat : Category), 1 ≤ imm →
      ∃ (t : State) (n : Nat), exec (.select imm cat) s = .next t ∧ 4 ≤ n ∧ n ≤ 384 ∧ n % 2 = 0 ∧
        t.state.toInt = lcgStep^[n] s.state.toInt)

/-! ## All commands at once -/

/-- R14, R20, R42: what every command leaves unchanged: everything but STATE, SEEDED and its response; SEEDED moves only to 1
and only by SEED (R22, R86); the response is well formed (R64, R120). Nothing is written to the table ROM: it is no part of the
state (log entry 2). -/
def Obligations.CommandFrame : Prop :=
  ∀ (i : Instr) (s t : State), exec i s = .next t →
    t = { s with state := t.state, seeded := t.seeded, rsp := t.rsp } ∧
    ((∀ imm, i ≠ .seed imm) → t.seeded = s.seeded) ∧
    (∀ imm, i = .seed imm → t.seeded = true) ∧
    (∃ r, t.rsp = some r ∧ RspWf r)

/-- R14, R46: every command answers a next state from every state: no ROM address outside the map is ever read. -/
def Obligations.EveryCommandCompletes : Prop :=
  ∀ (i : Instr) (s : State), ∃ t r, exec i s = .next t ∧ t.rsp = some r

/-- 10_state.md section 1, the spec's own inference R23: over every command but SEED, STATE is left alone or becomes reduced, its sign never turns, zero stays zero, and a
non-zero reduced state stays one. -/
def Obligations.StateSignAndZeroArePreserved : Prop :=
  ∀ (i : Instr) (s t : State), (∀ imm, i ≠ .seed imm) → exec i s = .next t →
    (t.state = s.state ∨ IsReduced t.state.toInt) ∧
    (0 < s.state.toInt → 0 ≤ t.state.toInt) ∧ (s.state.toInt < 0 → t.state.toInt ≤ 0) ∧
    (s.state.toInt = 0 → t.state.toInt = 0) ∧
    (IsReduced s.state.toInt → s.state.toInt ≠ 0 → IsReduced t.state.toInt ∧ t.state.toInt ≠ 0)

/-- R128: a fault ends the command and saves nothing: IllegalCmd, NotSeeded and InvalidLevel leave everything as it was, Exhausted
leaves exactly the state 64 iterations produce; RESULT is 0 (R12, R64, R120); and no fault is sticky: no command looks at the response of the one before. -/
def Obligations.FaultsArePreciseAndNotSticky : Prop :=
  ∀ (i : Instr) (s t : State), exec i s = .next t →
    (shownStatus t = 1#8 ∨ shownStatus t = 2#8 ∨ shownStatus t = 3#8 → t = { s with rsp := t.rsp }) ∧
    (shownStatus t = 4#8 → ∃ imm cat, i = .select imm cat ∧
      t = { s with state := toBits32 (iterState imm 64 s.state.toInt), rsp := t.rsp }) ∧
    (∀ r, t.rsp = some r → rspStatus r ≠ 0#8 → rspResult r = 0#32) ∧
    (∀ (r : Option RspWord) (l : List RspWord), exec i { s with rsp := r, taken := l } = .next { t with taken := l })

/-- 40_generator.md sections 2 and 3, the spec's own inferences R82 f and R85 g: a seed `v` and a seed `trem(v, 2796203)` give the same responses; the states differ only until a draw. -/
def Obligations.SeedsWithEqualRemaindersRespondAlike : Prop :=
  ∀ (i : Instr) (s s' : State), s' = { s with state := s'.state } →
    trem s.state.toInt 2796203 = trem s'.state.toInt 2796203 →
    ∃ t t', exec i s = .next t ∧ exec i s' = .next t' ∧ t.rsp = t'.rsp ∧
      (t = t' ∨ (t.state = s.state ∧ t'.state = s'.state))

/-! ## The step: channels, reset, whole-machine rules -/

/-- R14, R60: a ready block accepts the word that stands on the command channel, and where it decodes to a command, the step
is that command, run on the block that has accepted it: BUSY is 1 and the word has left the channel. -/
def Obligations.StepRunsTheDecodedCommand : Prop :=
  ∀ (s : State) (w : CmdWord) (rest : List CmdWord) (i : Instr), Ready s → s.cmds = w :: rest → decode w = some i →
    WellFormed i ∧ step s = exec i { s with busy := true, cmds := rest }

/-- R62, R136, R150 (the host's script is the model's choice, log entry 3): where nothing can be accepted, a presented word waits behind the others, and with no host event left
nothing changes. -/
def Obligations.PresentedWordsWait : Prop :=
  ∀ s : State, AcceptsNothing s →
    (s.host = [] → step s = .next s) ∧
    (∀ w rest, s.host = .present w :: rest → step s = .next { s with host := rest, cmds := s.cmds ++ [w] })

/-- R61, R53 (the host's script and record are the model's choice, log entry 3): where nothing can be accepted and the host is ready, the response that stands on the channel goes to the host
behind all earlier ones and the block is idle again; where none stands there, nothing is transferred. -/
def Obligations.ResponsesAreTransferredInOrder : Prop :=
  ∀ (s : State) (rest : List HostEvent), AcceptsNothing s → s.host = .takeRsp :: rest →
    (∀ r, s.rsp = some r →
      step s = .next { s with host := rest, busy := false, rsp := none, taken := s.taken ++ [r] }) ∧
    (s.rsp = none → step s = .next { s with host := rest })

/-- R140, R141, R142, in the model's terms (the host's script is log entry 3, a command in flight shown as a response that waits is
log entry 6, `ready` low while `rst` is held is log entry 8): where nothing is being accepted, asserting `rst` makes SEEDED and BUSY 0
and withdraws a response, whatever the host does next; where a word stands on a ready block's channel, it is accepted first and the
assertion then abandons it, so that no response to it is ever given; and releasing `rst` changes nothing else. Nothing is said
of what STATE becomes. -/
def Obligations.ResetAbandonsTheCommand : Prop :=
  (∀ (s : State) (rest : List HostEvent), AcceptsNothing s → s.host = .setRst true :: rest →
    ∃ t, step s = .next t ∧ cmdReady t = false ∧ rspValid t = false ∧
      t = { s with state := t.state, seeded := false, busy := false, rsp := none, rst := true, host := rest }) ∧
  (∀ (s : State) (w : CmdWord) (ws : List CmdWord) (rest : List HostEvent), Ready s → s.cmds = w :: ws →
    s.host = .setRst true :: rest →
    ∃ t, Sys2Proof.core.run 2 s = .next t ∧ cmdReady t = false ∧ rspValid t = false ∧
      t = { s with state := t.state, seeded := false, busy := false, rsp := none, rst := true, cmds := ws, host := rest }) ∧
  (∀ (s : State) (rest : List HostEvent), AcceptsNothing s → s.host = .setRst false :: rest →
    ∃ t, step s = .next t ∧ t = { s with rst := false, host := rest } ∧ cmdReady t = !s.busy)

/-- R32, R141 (the host's side is the model's choice, log entry 3; `rst` low is log entry 8; nothing is said of STATE): the state
after reset: not seeded, idle, `ready` high, response `valid` low; no word, no further move and no response taken on the host's
side. -/
def Obligations.ResetState : Prop :=
  State.reset.seeded = false ∧ State.reset.busy = false ∧ State.reset.rsp = none ∧ State.reset.rst = false ∧
  cmdReady State.reset = true ∧ rspValid State.reset = false ∧ cmdValid State.reset = false ∧ State.reset.cmds = [] ∧
  State.reset.host = [] ∧ State.reset.taken = []

/-- The invariant (log entries 6 and 8) holds after reset (R32, R141). -/
def Obligations.ResetMeetsInv : Prop := Inv State.reset

/-- Every step keeps the invariant: BUSY exactly while a response waits (R31, with a command as one big step, log entry 6, DEDUCED),
every response well formed (R64, R120), a block held in reset idle and unseeded (R141 for the state entered, log entry 8, DEDUCED,
for `ready` low while `rst` is high). -/
def Obligations.EveryStepKeepsInv : Prop :=
  ∀ s t : State, Inv s → step s = .next t → Inv t

/-- R14, R150: no state stops the machine: every step answers a next state. -/
def Obligations.EveryStepAnswers : Prop := ∀ s : State, ∃ t, step s = .next t

/-- R22: SEEDED is set by an accepted SEED and by nothing else, and cleared by reset and by nothing else. That a reset falls in a
step that accepts nothing is the model's choice (log entry 3, DESIGN CHOICE: the block moves before the host); R140 lets it come at
any time. -/
def Obligations.SeededSetBySeedClearedByReset : Prop :=
  ∀ s t : State, step s = .next t →
    (s.seeded = false → t.seeded = true →
      ∃ w rest imm, Ready s ∧ s.cmds = w :: rest ∧ decode w = some (.seed imm)) ∧
    (s.seeded = true → t.seeded = false → ∃ rest, AcceptsNothing s ∧ s.host = .setRst true :: rest)

/-- R20, R22, R31 (the host's script and record are the model's choice, log entry 3): what one step leaves unchanged. A step that accepts a word touches the host's record and script, and reset,
not at all, and a step that accepts none leaves STATE and SEEDED alone unless it is a reset. -/
def Obligations.StepFrame : Prop :=
  ∀ s t : State, step s = .next t →
    (¬ AcceptsNothing s → t.rst = s.rst ∧ t.host = s.host ∧ t.taken = s.taken ∧ t.cmds = s.cmds.tail ∧ t.busy = true) ∧
    (AcceptsNothing s → (∀ rest, s.host ≠ .setRst true :: rest) →
      t.state = s.state ∧ t.seeded = s.seeded ∧ t.host = s.host.tail)

/-- R127, R120, R122: which status a ready block answers each word with: the first condition in the rule's order, decode, then
the operand, then SEEDED, then Exhausted. At most one fault is reported. -/
def Obligations.StatusFollowsTheOrderOfChecks : Prop :=
  ∀ (s : State) (w : CmdWord) (rest : List CmdWord), Ready s → s.cmds = w :: rest →
    ∃ t, step s = .next t ∧ t.busy = true ∧ t.cmds = rest ∧
      shownStatus t =
        match decode w with
        | none => 0x01#8
        | some (.seed _) => 0x00#8
        | some .draw => if s.seeded then 0x00#8 else 0x02#8
        | some (.rnd imm) => if imm < 1 then 0x00#8 else if s.seeded then 0x00#8 else 0x02#8
        | some (.select imm cat) =>
          if imm < 1 then 0x03#8
          else if s.seeded then
            if ∀ j : Nat, j < 64 → slotAt params imm cat j s.state.toInt = some 0x20#8 then 0x04#8 else 0x00#8
          else 0x02#8

/-- R143, R144: on a seeded block no command is ever answered NotSeeded. -/
def Obligations.SeededBlockNeverAnswersNotSeeded : Prop :=
  ∀ (i : Instr) (s t : State), s.seeded = true → exec i s = .next t → t.seeded = true ∧ shownStatus t ≠ 0x02#8

/-- R32, R151: what STATE holds before a SEED cannot be observed: two states that differ in nothing else stay so over any
number of steps, and all their responses are the same. -/
def Obligations.UnseededStateIsInvisible : Prop :=
  ∀ (n : Nat) (s s' : State), visible s = visible s' →
    ∃ t t', Sys2Proof.core.run n s = .next t ∧ Sys2Proof.core.run n s' = .next t' ∧ visible t = visible t' ∧
      t.rsp = t'.rsp ∧ t.taken = t'.taken

/-- R61, R150 (the host's script and record are the model's choice, log entry 3): a command that a ready block accepts is answered, and its one response reaches a host that is ready: two steps
later the block is idle with the next word still to come. -/
def Obligations.AcceptedCommandIsAnswered : Prop :=
  ∀ (s : State) (w : CmdWord) (ws : List CmdWord) (rest : List HostEvent), Ready s → s.cmds = w :: ws →
    s.host = .takeRsp :: rest →
    ∃ t r, Sys2Proof.core.run 2 s = .next t ∧ Ready t ∧ t.rsp = none ∧ t.cmds = ws ∧ t.host = rest ∧
      t.taken = s.taken ++ [r] ∧ RspWf r

/-- R141, R142 (`ready` low while `rst` is held is log entry 8, DEDUCED; the host's script is log entry 3): as long as reset is held,
over any number of steps and whatever the host does but release it, no word is accepted or lost, no response is given, and the
block stays idle and unseeded. -/
def Obligations.HeldResetAcceptsNothing : Prop :=
  ∀ (n : Nat) (s : State), Inv s → s.rst = true → HostEvent.setRst false ∉ s.host.take n →
    ∃ t, Sys2Proof.core.run n s = .next t ∧ t.rst = true ∧ t.seeded = false ∧ t.busy = false ∧ t.rsp = none ∧
      t.taken = s.taken ∧ t.host = s.host.drop n ∧ s.cmds <+: t.cmds

end
end

