-- ==== Sys2Proof/Laws/Arithmetic.lean ====
section
/-! SUPPORT. What each integer operation can give: the truncating remainder is Lean's `Int.tmod`, a draw is bounded, and a
range-mapped draw is below its range and moves the state by two draws or none. -/

namespace Sys2Proof.Machine

theorem tdiv_eq_int_tdiv (a n : Int) : tdiv a n = Int.tdiv a n := by
  unfold tdiv
  split
  · next h => exact (Int.tdiv_eq_ediv_of_nonneg h).symm
  · next h =>
    have : Int.tdiv a n = -Int.tdiv (-a) n := by rw [Int.neg_tdiv, neg_neg]
    rw [this, Int.tdiv_eq_ediv_of_nonneg (by omega)]

theorem trem_eq_tmod (a n : Int) : trem a n = Int.tmod a n := by
  rw [trem, tdiv_eq_int_tdiv, Int.tmod_def, mul_comm]

theorem lcgStep_eq_tmod (s : Int) : lcgStep s = Int.tmod (125 * s) 2796203 :=
  trem_eq_tmod _ _

/-- Every draw leaves a reduced state. -/
theorem lcgStep_bounds (s : Int) : -2796202 ≤ lcgStep s ∧ lcgStep s ≤ 2796202 := by
  rw [lcgStep_eq_tmod]
  have h := Int.natAbs_tmod (125 * s) 2796203
  have : (125 * s).natAbs % (2796203 : Int).natAbs < 2796203 := Nat.mod_lt _ (by decide)
  omega

theorem maskSum_bounds (v : Int) : 0 ≤ maskSum v ∧ maskSum v ≤ 2147483647 := by
  unfold maskSum maskSpan
  omega

/-- With a range below 1: no draw, result 0. -/
theorem lcgRnd_of_lt_one {s r : Int} (h : r < 1) : lcgRnd s r = (0, s) := if_pos h

/-- With a range: two draws, the masked sum reduced. -/
theorem lcgRnd_of_one_le {s r : Int} (h : 1 ≤ r) :
    lcgRnd s r = (maskSum (lcgStep s + lcgStep (lcgStep s)) % r, lcgStep (lcgStep s)) := if_neg (by omega)

theorem lcgRnd_value_bounds {s r : Int} (h : 1 ≤ r) : 0 ≤ (lcgRnd s r).1 ∧ (lcgRnd s r).1 ≤ r - 1 := by
  rw [lcgRnd_of_one_le h]
  exact ⟨Int.emod_nonneg _ (by omega), by have := Int.emod_lt_of_pos (maskSum (lcgStep s + lcgStep (lcgStep s))) (by omega : 0 < r); simp only; omega⟩

/-- The two readings of 32 bits undo each other on every integer that fits. -/
theorem sext32_toBits32 {v : Int} (h : Fits32 v) : sext32 (toBits32 v) = v := by
  unfold sext32 toBits32
  exact BitVec.toInt_ofInt_eq_self (by decide) (by omega) (by omega)

theorem sext32_fits (b : Word) : Fits32 (sext32 b) := by
  have h1 := BitVec.le_toInt b
  have h2 := BitVec.toInt_lt (x := b)
  unfold sext32
  constructor <;> omega

theorem toBits32_sext32 (b : Word) : toBits32 (sext32 b) = b := BitVec.ofInt_toInt

end Sys2Proof.Machine
end

