-- ==== Sys2Proof/Laws/Encoding.lean ====
section
/-! SUPPORT. The two 64-bit formats bit by bit, and the fields of a command word. -/

namespace Sys2Proof

/-- Every bit of a command word (30_encoding.md R63). -/
theorem getLsbD_formatC (opc : BitVec 8) (w : BitVec 1) (imm : Word) (k : Nat) :
    (formatC opc w imm).getLsbD k =
      if k < 32 then imm.getLsbD k
      else if k < 33 then w.getLsbD (k - 32)
      else if k < 56 then false
      else opc.getLsbD (k - 56) := by
  change BitVec.getLsbD (w := 8 + 23 + 1 + 32) (opc ++ 0#23 ++ w ++ imm) k = _
  rw [BitVec.getLsbD_append, BitVec.getLsbD_append, BitVec.getLsbD_append]
  by_cases h1 : k < 32
  · simp [h1]
  · by_cases h2 : k < 33
    · simp [h1, h2, show k - 32 < 1 by omega]
    · by_cases h3 : k < 56
      · simp [h1, h2, h3, show ¬ k - 32 < 1 by omega, show k - 32 - 1 < 23 by omega]
      · simp [h1, h2, h3, show ¬ k - 32 < 1 by omega, show ¬ k - 32 - 1 < 23 by omega,
          show k - 32 - 1 - 23 = k - 56 by omega]

/-- Every bit of a response word (30_encoding.md R64). -/
theorem getLsbD_formatR (st : Machine.Status) (result : Word) (k : Nat) :
    (Machine.formatR st result).getLsbD k =
      if k < 32 then result.getLsbD k else if k < 56 then false else st.code.getLsbD (k - 56) := by
  change BitVec.getLsbD (w := 8 + 24 + 32) (st.code ++ 0#24 ++ result) k = _
  rw [BitVec.getLsbD_append, BitVec.getLsbD_append]
  by_cases h1 : k < 32
  · simp [h1]
  · by_cases h2 : k < 56
    · simp [h1, h2, show k - 32 < 24 by omega]
    · simp [h1, h2, show ¬ k - 32 < 24 by omega, show k - 32 - 24 = k - 56 by omega]

theorem opcField_formatC (opc : BitVec 8) (w : BitVec 1) (imm : Word) : opcField (formatC opc w imm) = opc := by
  apply BitVec.eq_of_getLsbD_eq
  intro k hk
  rw [opcField, BitVec.getLsbD_extractLsb', getLsbD_formatC, if_neg (by omega), if_neg (by omega), if_neg (by omega)]
  simp [hk]

theorem zeroField_formatC (opc : BitVec 8) (w : BitVec 1) (imm : Word) : zeroField (formatC opc w imm) = 0#23 := by
  apply BitVec.eq_of_getLsbD_eq
  intro k hk
  rw [zeroField, BitVec.getLsbD_extractLsb', getLsbD_formatC, if_neg (by omega), if_neg (by omega), if_pos (by omega)]
  simp

theorem wField_formatC (opc : BitVec 8) (w : BitVec 1) (imm : Word) : wField (formatC opc w imm) = w := by
  apply BitVec.eq_of_getLsbD_eq
  intro k hk
  rw [wField, BitVec.getLsbD_extractLsb', getLsbD_formatC, if_neg (by omega), if_pos (by omega)]
  simp [hk]

theorem immField_formatC (opc : BitVec 8) (w : BitVec 1) (imm : Word) : immField (formatC opc w imm) = imm := by
  apply BitVec.eq_of_getLsbD_eq
  intro k hk
  rw [immField, BitVec.getLsbD_extractLsb', getLsbD_formatC]
  simp [hk]

/-- A command word is its four fields and nothing else (30_encoding.md R63). -/
theorem eq_formatC_of_zeroField {w : CmdWord} (h : zeroField w = 0#23) :
    w = formatC (opcField w) (wField w) (immField w) := by
  apply BitVec.eq_of_getLsbD_eq
  intro k hk
  rw [getLsbD_formatC]
  simp only [opcField, wField, immField, BitVec.getLsbD_extractLsb']
  by_cases h1 : k < 32
  · simp [h1]
  · by_cases h2 : k < 33
    · simp [h1, h2, show k - 32 < 1 by omega, show 32 + (k - 32) = k by omega]
    · by_cases h3 : k < 56
      · have := congrArg (fun z => z.getLsbD (k - 33)) h
        simp only [zeroField, BitVec.getLsbD_extractLsb'] at this
        simp [show k - 33 < 23 by omega, show 33 + (k - 33) = k by omega] at this
        simp [h1, h2, h3, this]
      · simp [h1, h2, h3, show k - 56 < 8 by omega, show 56 + (k - 56) = k by omega]

end Sys2Proof
end

