-- ==== Sys2Proof/Laws/Memory.lean ====
section
/-! SUPPORT. The table ROM: its canonical form, which nothing can break since the block has no operation that writes memory
(20_memory.md R42), and what a read of a laid-out table gives. -/

namespace Sys2Proof.Machine

/-- The block's ROM is in canonical form. -/
theorem rom_wf : Memory.wf (rom params) = true := by decide

/-- The block's parameters are a legal choice. -/
theorem params_wf : params.wf := by decide

theorem lookupCell_append (l m : List Host.Cell) (a : Nat) :
    lookupCell (l ++ m) a = (lookupCell l a).or (lookupCell m a) := by
  induction l with
  | nil => rfl
  | cons c cs ih =>
    simp only [List.cons_append, lookupCell]
    split
    · rfl
    · exact ih

/-- A table laid out from `base` on holds its slot `i` at `base + i`, and nothing anywhere else. -/
theorem lookupCell_cellsFrom (bs : List Byte) (base a : Nat) :
    lookupCell (cellsFrom base bs) a = if base ≤ a then bs[a - base]? else none := by
  induction bs generalizing base with
  | nil => simp [cellsFrom, lookupCell]
  | cons b bs ih =>
    rw [cellsFrom, lookupCell, ih]
    by_cases h : base = a
    · subst h; simp
    · by_cases h2 : base ≤ a
      · rw [if_neg h, if_pos (by omega), if_pos h2, show a - base = (a - (base + 1)) + 1 by omega]
        simp
      · rw [if_neg h, if_neg (by omega), if_neg h2]

/-- A read of the table ROM, whatever the parameters. -/
theorem memRead_eq (p : Params) (a : Nat) :
    memRead p a = (p.resTable[a]?).or (if 32 ≤ a then p.wanTable[a - 32]? else none) := by
  rw [memRead, rom, lookupCell_append, lookupCell_cellsFrom, lookupCell_cellsFrom]
  simp

theorem tableAddr_resident (idx : Int) : tableAddr .resident idx = idx.toNat := by
  simp only [tableAddr, catNumber]; omega

theorem tableAddr_wandering (idx : Int) : tableAddr .wandering idx = 32 + idx.toNat := by
  simp only [tableAddr, catNumber]

/-- Every slot of a legal block's tables is implemented. -/
theorem tableRead_isSome {p : Params} (hp : p.wf) (cat : Category) {idx : Int} (h0 : 0 ≤ idx) (h1 : idx ≤ 25) :
    ∃ ch, tableRead p cat idx = some ch := by
  obtain ⟨hr, hw, -⟩ := hp
  rw [tableRead, memRead_eq]
  cases cat with
  | resident =>
    have h : tableAddr .resident idx < p.resTable.length := by simp only [tableAddr, catNumber]; omega
    exact ⟨p.resTable[tableAddr .resident idx], by rw [List.getElem?_eq_getElem h]; rfl⟩
  | wandering =>
    have h : p.resTable.length ≤ tableAddr .wandering idx := by simp only [tableAddr, catNumber]; omega
    have h' : tableAddr .wandering idx - 32 < p.wanTable.length := by simp only [tableAddr, catNumber]; omega
    exact ⟨p.wanTable[tableAddr .wandering idx - 32], by
      rw [List.getElem?_eq_none h, if_pos (by simp only [tableAddr, catNumber]; omega), List.getElem?_eq_getElem h']; rfl⟩

end Sys2Proof.Machine
end

