-- ==== Sys2Proof/Laws/State.lean ====
section
/-! SUPPORT. One lemma per field of State per update, so that no proof unfolds a record update. -/

namespace Sys2Proof.Machine

/-! ## writeState -/

@[simp] theorem writeState_state (v : Int) (s : State) : (writeState v s).state = toBits32 v := rfl
@[simp] theorem writeState_seeded (v : Int) (s : State) : (writeState v s).seeded = s.seeded := rfl
@[simp] theorem writeState_busy (v : Int) (s : State) : (writeState v s).busy = s.busy := rfl
@[simp] theorem writeState_rsp (v : Int) (s : State) : (writeState v s).rsp = s.rsp := rfl
@[simp] theorem writeState_rst (v : Int) (s : State) : (writeState v s).rst = s.rst := rfl
@[simp] theorem writeState_cmds (v : Int) (s : State) : (writeState v s).cmds = s.cmds := rfl
@[simp] theorem writeState_host (v : Int) (s : State) : (writeState v s).host = s.host := rfl
@[simp] theorem writeState_taken (v : Int) (s : State) : (writeState v s).taken = s.taken := rfl

/-! ## setSeeded -/

@[simp] theorem setSeeded_state (s : State) : (setSeeded s).state = s.state := rfl
@[simp] theorem setSeeded_seeded (s : State) : (setSeeded s).seeded = true := rfl
@[simp] theorem setSeeded_busy (s : State) : (setSeeded s).busy = s.busy := rfl
@[simp] theorem setSeeded_rsp (s : State) : (setSeeded s).rsp = s.rsp := rfl
@[simp] theorem setSeeded_rst (s : State) : (setSeeded s).rst = s.rst := rfl
@[simp] theorem setSeeded_cmds (s : State) : (setSeeded s).cmds = s.cmds := rfl
@[simp] theorem setSeeded_host (s : State) : (setSeeded s).host = s.host := rfl
@[simp] theorem setSeeded_taken (s : State) : (setSeeded s).taken = s.taken := rfl

/-! ## respond -/

@[simp] theorem respond_state (r : Word) (s : State) : (respond r s).state = s.state := rfl
@[simp] theorem respond_seeded (r : Word) (s : State) : (respond r s).seeded = s.seeded := rfl
@[simp] theorem respond_busy (r : Word) (s : State) : (respond r s).busy = s.busy := rfl
@[simp] theorem respond_rsp (r : Word) (s : State) : (respond r s).rsp = some (formatR .ok r) := rfl
@[simp] theorem respond_rst (r : Word) (s : State) : (respond r s).rst = s.rst := rfl
@[simp] theorem respond_cmds (r : Word) (s : State) : (respond r s).cmds = s.cmds := rfl
@[simp] theorem respond_host (r : Word) (s : State) : (respond r s).host = s.host := rfl
@[simp] theorem respond_taken (r : Word) (s : State) : (respond r s).taken = s.taken := rfl

/-! ## raise -/

@[simp] theorem raise_state (f : Status) (s : State) : (raise f s).state = s.state := rfl
@[simp] theorem raise_seeded (f : Status) (s : State) : (raise f s).seeded = s.seeded := rfl
@[simp] theorem raise_busy (f : Status) (s : State) : (raise f s).busy = s.busy := rfl
@[simp] theorem raise_rsp (f : Status) (s : State) : (raise f s).rsp = some (formatR f 0#32) := rfl
@[simp] theorem raise_rst (f : Status) (s : State) : (raise f s).rst = s.rst := rfl
@[simp] theorem raise_cmds (f : Status) (s : State) : (raise f s).cmds = s.cmds := rfl
@[simp] theorem raise_host (f : Status) (s : State) : (raise f s).host = s.host := rfl
@[simp] theorem raise_taken (f : Status) (s : State) : (raise f s).taken = s.taken := rfl

/-! ## hang -/

@[simp] theorem hang_state (s : State) : (hang s).state = s.state := rfl
@[simp] theorem hang_seeded (s : State) : (hang s).seeded = s.seeded := rfl
@[simp] theorem hang_busy (s : State) : (hang s).busy = true := rfl
@[simp] theorem hang_rsp (s : State) : (hang s).rsp = none := rfl
@[simp] theorem hang_rst (s : State) : (hang s).rst = s.rst := rfl
@[simp] theorem hang_cmds (s : State) : (hang s).cmds = s.cmds := rfl
@[simp] theorem hang_host (s : State) : (hang s).host = s.host := rfl
@[simp] theorem hang_taken (s : State) : (hang s).taken = s.taken := rfl

/-! ## accept -/

@[simp] theorem accept_state (l : List CmdWord) (s : State) : (accept l s).state = s.state := rfl
@[simp] theorem accept_seeded (l : List CmdWord) (s : State) : (accept l s).seeded = s.seeded := rfl
@[simp] theorem accept_busy (l : List CmdWord) (s : State) : (accept l s).busy = true := rfl
@[simp] theorem accept_rsp (l : List CmdWord) (s : State) : (accept l s).rsp = s.rsp := rfl
@[simp] theorem accept_rst (l : List CmdWord) (s : State) : (accept l s).rst = s.rst := rfl
@[simp] theorem accept_cmds (l : List CmdWord) (s : State) : (accept l s).cmds = l := rfl
@[simp] theorem accept_host (l : List CmdWord) (s : State) : (accept l s).host = s.host := rfl
@[simp] theorem accept_taken (l : List CmdWord) (s : State) : (accept l s).taken = s.taken := rfl

/-! ## enterReset -/

@[simp] theorem enterReset_state (s : State) : (enterReset s).state = 0#32 := rfl
@[simp] theorem enterReset_seeded (s : State) : (enterReset s).seeded = false := rfl
@[simp] theorem enterReset_busy (s : State) : (enterReset s).busy = false := rfl
@[simp] theorem enterReset_rsp (s : State) : (enterReset s).rsp = none := rfl
@[simp] theorem enterReset_rst (s : State) : (enterReset s).rst = true := rfl
@[simp] theorem enterReset_cmds (s : State) : (enterReset s).cmds = s.cmds := rfl
@[simp] theorem enterReset_host (s : State) : (enterReset s).host = s.host := rfl
@[simp] theorem enterReset_taken (s : State) : (enterReset s).taken = s.taken := rfl

/-! ## offer -/

@[simp] theorem offer_state (w : CmdWord) (s : State) : (offer w s).state = s.state := rfl
@[simp] theorem offer_seeded (w : CmdWord) (s : State) : (offer w s).seeded = s.seeded := rfl
@[simp] theorem offer_busy (w : CmdWord) (s : State) : (offer w s).busy = false := rfl
@[simp] theorem offer_rsp (w : CmdWord) (s : State) : (offer w s).rsp = none := rfl
@[simp] theorem offer_rst (w : CmdWord) (s : State) : (offer w s).rst = false := rfl
@[simp] theorem offer_cmds (w : CmdWord) (s : State) : (offer w s).cmds = w :: s.cmds := rfl
@[simp] theorem offer_host (w : CmdWord) (s : State) : (offer w s).host = s.host := rfl
@[simp] theorem offer_taken (w : CmdWord) (s : State) : (offer w s).taken = s.taken := rfl

end Sys2Proof.Machine
end

