-- ==== Sys2Proof/Laws/Ops.lean ====
section
/-! SUPPORT. One lemma per shared operation over the registers and the response channel: what it can answer. -/

namespace Sys2Proof.Machine

/-- STATE reads back as the integer written, wherever it fits the register (00_scope.md R7). -/
theorem readState_writeState {v : Int} (h : Fits32 v) (s : State) : readState (writeState v s) = v :=
  sext32_toBits32 h

theorem readState_setSeeded (s : State) : readState (setSeeded s) = readState s := rfl
theorem readState_respond (r : Word) (s : State) : readState (respond r s) = readState s := rfl
theorem readState_raise (f : Status) (s : State) : readState (raise f s) = readState s := rfl

/-- The SEEDED check either raises NotSeeded or lets the command run. -/
theorem ifSeeded_cases (s : State) (run : Outcome) :
    (s.seeded = true ∧ ifSeeded s run = run) ∨ (s.seeded = false ∧ ifSeeded s run = .next (raise .notSeeded s)) := by
  unfold ifSeeded
  cases s.seeded <;> simp

/-- RND's operand condition either responds 0 or lets the command run. -/
theorem ifRange_cases (imm : Int) (s : State) (run : Outcome) :
    (1 ≤ imm ∧ ifRange imm s run = run) ∨ (imm < 1 ∧ ifRange imm s run = .next (respond 0#32 s)) := by
  unfold ifRange belowOne
  by_cases h : imm < 1 <;> simp [h]
  omega

/-- SELECT's operand condition either raises InvalidLevel or lets the command run. -/
theorem ifLevel_cases (imm : Int) (s : State) (run : Outcome) :
    (1 ≤ imm ∧ ifLevel imm s run = run) ∨ (imm < 1 ∧ ifLevel imm s run = .next (raise .invalidLevel s)) := by
  unfold ifLevel belowOne
  by_cases h : imm < 1 <;> simp [h]
  omega

end Sys2Proof.Machine
end

