-- ==== Sys2Proof/Laws/PerInstr.lean ====
section
/-! SUPPORT. Statements made for every command, one lemma per constructor. -/

namespace Sys2Proof.Laws

/-- Format C as two 32-bit halves. -/
theorem formatC_eq (opc : BitVec 8) (w : BitVec 1) (imm : Word) :
    formatC opc w imm = ((opc ++ 0#23 ++ w : BitVec 32) ++ imm : BitVec 64) := rfl

/-- The header half and the operand half of a command are masked separately. -/
theorem formatC_and (opc : BitVec 8) (w : BitVec 1) (imm : Word) (hi lo : BitVec 32) :
    formatC opc w imm &&& (hi ++ lo : BitVec 64) = ((opc ++ 0#23 ++ w : BitVec 32) &&& hi) ++ (imm &&& lo) := by
  rw [formatC_eq, BitVec.and_append]

/-- EncodesInRow: the word of a command, whatever its operands, selects the command's own row of the opcode map
(30_encoding.md R66). -/
def EncodesInRow.Statement (i : Instr) : Prop := selects (rowOf i) (encode i) = true

theorem EncodesInRow.seed (imm : Int) : EncodesInRow.Statement (.seed imm) := by
  have h := formatC_and 0x01#8 0#1 (toBits32 imm) 0xFFFFFFFF#32 0#32
  rw [BitVec.and_zero] at h
  simp only [EncodesInRow.Statement, selects, beq_iff_eq]
  exact h

theorem EncodesInRow.draw : EncodesInRow.Statement .draw := by
  simp only [EncodesInRow.Statement]
  decide

theorem EncodesInRow.rnd (imm : Int) : EncodesInRow.Statement (.rnd imm) := by
  have h := formatC_and 0x03#8 0#1 (toBits32 imm) 0xFFFFFFFF#32 0#32
  rw [BitVec.and_zero] at h
  simp only [EncodesInRow.Statement, selects, beq_iff_eq]
  exact h

theorem EncodesInRow.select (imm : Int) (cat : Category) : EncodesInRow.Statement (.select imm cat) := by
  have h := formatC_and 0x04#8 (catBit cat) (toBits32 imm) 0xFFFFFFFE#32 0#32
  rw [BitVec.and_zero] at h
  simp only [EncodesInRow.Statement, selects, beq_iff_eq]
  cases cat <;> exact h

/-- No word selects two rows of the opcode map (30_encoding.md R66: "The rows are disjoint"). -/
theorem opcodeMap_disjoint : opcodeMap.Pairwise rowsDisjoint := by decide

end Sys2Proof.Laws
end

