-- ==== Sys2Proof/Laws/Selector.lean ====
section
/-! SUPPORT. What one iteration and the loop of SELECT can give: an index of 0 to 25, a reduced state, and never an address the
ROM does not implement. -/

namespace Sys2Proof.Machine

theorem lcgRnd_state_bounds {s r : Int} (h : 1 ≤ r) : -2796202 ≤ (lcgRnd s r).2 ∧ (lcgRnd s r).2 ≤ 2796202 := by
  rw [lcgRnd_of_one_le h]
  exact lcgStep_bounds _

/-- The jitter sum lies in 0 to 9. -/
theorem selJitter_bounds (s : Int) : 0 ≤ (selJitter s).1 ∧ (selJitter s).1 ≤ 9 := by
  have ha := lcgRnd_value_bounds (s := s) (r := rangeA) (by decide)
  have hb := lcgRnd_value_bounds (s := (lcgRnd s rangeA).2) (r := rangeB) (by decide)
  simp only [rangeA, rangeB] at ha hb
  simp only [selJitter, rangeA, rangeB]
  omega

theorem lowClamp_cases (d s : Int) :
    (1 ≤ d ∧ lowClamp d s = (d, s)) ∨
    (d < 1 ∧ lowClamp d s = ((lcgRnd s 5).1 + 1, (lcgRnd s 5).2)) := by
  unfold lowClamp depthMin rangeClamp lowBase
  split
  · exact .inr ⟨‹_›, rfl⟩
  · exact .inl ⟨by omega, rfl⟩

theorem highClamp_cases (d s : Int) :
    (d ≤ 26 ∧ highClamp d s = (d, s)) ∨
    (26 < d ∧ highClamp d s = ((lcgRnd s 5).1 + 22, (lcgRnd s 5).2)) := by
  unfold highClamp depthMax rangeClamp highBase
  split
  · exact .inr ⟨‹_›, rfl⟩
  · exact .inl ⟨by omega, rfl⟩

/-- Everything one iteration can do, by the depth before the clamps: no clamp, the low clamp alone, the high clamp alone. -/
theorem selIter_cases (s level : Int) :
    let d := level + ((selJitter s).1 - 5)
    let c := lcgRnd (selJitter s).2 5
    (1 ≤ d ∧ d ≤ 26 ∧ selIter s level = (d - 1, (selJitter s).2)) ∨
    (d < 1 ∧ selIter s level = (c.1, c.2)) ∨
    (26 < d ∧ selIter s level = (c.1 + 21, c.2)) := by
  intro d c
  have hc := lcgRnd_value_bounds (s := (selJitter s).2) (r := 5) (by decide)
  have heq : selIter s level =
      ((highClamp (lowClamp d (selJitter s).2).1 (lowClamp d (selJitter s).2).2).1 - 1,
       (highClamp (lowClamp d (selJitter s).2).1 (lowClamp d (selJitter s).2).2).2) := rfl
  rcases lowClamp_cases d (selJitter s).2 with ⟨hd, hl⟩ | ⟨hd, hl⟩
  · rw [hl] at heq
    rcases highClamp_cases d (selJitter s).2 with ⟨hh, he⟩ | ⟨hh, he⟩
    · rw [he] at heq
      exact .inl ⟨hd, hh, heq⟩
    · rw [he] at heq
      refine .inr (.inr ⟨hh, ?_⟩)
      rw [heq]
      show (c.1 + 22 - 1, c.2) = (c.1 + 21, c.2)
      rw [show c.1 + 22 - 1 = c.1 + 21 by omega]
  · rw [hl] at heq
    rcases highClamp_cases ((lcgRnd (selJitter s).2 5).1 + 1) (lcgRnd (selJitter s).2 5).2 with ⟨hh, he⟩ | ⟨hh, he⟩
    · rw [he] at heq
      refine .inr (.inl ⟨hd, ?_⟩)
      rw [heq]
      show (c.1 + 1 - 1, c.2) = (c.1, c.2)
      rw [show c.1 + 1 - 1 = c.1 by omega]
    · omega

/-- The index is always a slot of the table, whatever the level. -/
theorem selIter_index_bounds (s level : Int) : 0 ≤ (selIter s level).1 ∧ (selIter s level).1 ≤ 25 := by
  have hc := lcgRnd_value_bounds (s := (selJitter s).2) (r := 5) (by decide)
  rcases selIter_cases s level with ⟨h1, h2, h⟩ | ⟨h1, h⟩ | ⟨h1, h⟩ <;> rw [h] <;> simp only <;> omega

/-- An iteration makes draws, so the state it leaves is reduced. -/
theorem selIter_state_bounds (s level : Int) :
    -2796202 ≤ (selIter s level).2 ∧ (selIter s level).2 ≤ 2796202 := by
  have hj : -2796202 ≤ (selJitter s).2 ∧ (selJitter s).2 ≤ 2796202 := lcgRnd_state_bounds (by decide)
  have hc := lcgRnd_state_bounds (s := (selJitter s).2) (r := 5) (by decide)
  rcases selIter_cases s level with ⟨_, _, h⟩ | ⟨_, h⟩ | ⟨_, h⟩ <;> rw [h] <;> assumption

theorem ranOut_some (n : Nat) (v : Int) (s : State) : ranOut (some n) v s = raise .exhausted (writeState v s) := rfl
theorem ranOut_none (v : Int) (s : State) : ranOut none v s = hang s := rfl

end Sys2Proof.Machine
end

