-- ==== Sys2Proof/Laws/Step.lean ====
section
/-! SUPPORT. What a step can do: accept and run a word, or one move of the host. -/

namespace Sys2Proof.Machine

/-- A word is accepted exactly where the block is ready and one stands on the channel. -/
theorem fetch_eq_some {s s' : State} {w : CmdWord} :
    fetch s = some (w, s') ↔ s.busy = false ∧ s.rst = false ∧ ∃ rest, s.cmds = w :: rest ∧ s' = accept rest s := by
  unfold fetch cmdReady
  cases hb : s.busy <;> cases hr : s.rst <;> cases hc : s.cmds <;> simp
  exact fun _ => eq_comm

/-- Nothing is accepted from a busy block, a block held in reset, or an empty channel. -/
theorem fetch_eq_none {s : State} : fetch s = none ↔ s.busy = true ∨ s.rst = true ∨ s.cmds = [] := by
  unfold fetch cmdReady
  cases hb : s.busy <;> cases hr : s.rst <;> cases hc : s.cmds <;> simp

/-- The two kinds of step: the run of an accepted word, or the host's next move. -/
theorem step_cases (s : State) :
    (∃ w rest, s.busy = false ∧ s.rst = false ∧ s.cmds = w :: rest ∧ step s = runWord w (accept rest s)) ∨
    ((s.busy = true ∨ s.rst = true ∨ s.cmds = []) ∧ step s = .next (hostMove s)) := by
  cases h : fetch s with
  | none => exact .inr ⟨fetch_eq_none.mp h, by rw [step, h]⟩
  | some p =>
    obtain ⟨w, s'⟩ := p
    obtain ⟨hb, hr, rest, hc, rfl⟩ := fetch_eq_some.mp h
    exact .inl ⟨w, rest, hb, hr, hc, by rw [step, h]⟩

/-- Everything a move of the host can do. -/
theorem hostMove_cases (s : State) :
    (s.host = [] ∧ hostMove s = s) ∨
    (∃ w rest, s.host = .present w :: rest ∧ hostMove s = { s with host := rest, cmds := s.cmds ++ [w] }) ∨
    (∃ rest, s.host = .takeRsp :: rest ∧ hostMove s = transfer { s with host := rest }) ∨
    (∃ rest, s.host = .setRst true :: rest ∧ hostMove s = enterReset { s with host := rest }) ∨
    (∃ rest, s.host = .setRst false :: rest ∧ hostMove s = { s with host := rest, rst := false }) := by
  unfold hostMove
  split
  · exact .inl ⟨‹_›, rfl⟩
  · next e rest h =>
    cases e with
    | present w => exact .inr (.inl ⟨w, rest, h, rfl⟩)
    | takeRsp => exact .inr (.inr (.inl ⟨rest, h, rfl⟩))
    | setRst level =>
      cases level
      · exact .inr (.inr (.inr (.inr ⟨rest, h, rfl⟩)))
      · exact .inr (.inr (.inr (.inl ⟨rest, h, rfl⟩)))

/-- A transfer does nothing where no response stands on the channel, else it hands it over. -/
theorem transfer_cases (s : State) :
    (s.rsp = none ∧ transfer s = s) ∨
    (∃ r, s.rsp = some r ∧ transfer s = { s with busy := false, rsp := none, taken := s.taken ++ [r] }) := by
  unfold transfer
  cases h : s.rsp with
  | none => exact .inl ⟨rfl, rfl⟩
  | some r => exact .inr ⟨r, rfl, rfl⟩

/-- A run whose first step answers a next state goes on from there. -/
theorem run_succ {s t : State} (h : step s = .next t) (k : Nat) : Sys2Proof.core.run (k + 1) s = Sys2Proof.core.run k t := by
  have h' : Sys2Proof.core.step s = .next t := h
  simp only [Host.Core.run, h']

end Sys2Proof.Machine
end

