-- ==== Sys2Proof/Laws/Safety.lean ====
section
/-! SUPPORT. The small lemmas of the terms claims use: iterations counted from the front, one turn of the loop, and which of the
two kinds of step a state makes. -/

namespace Sys2Proof.Machine

theorem iterState_zero (level s : Int) : iterState level 0 s = s := rfl

theorem iterState_succ (level : Int) (k : Nat) (s : Int) :
    iterState level (k + 1) s = iterState level k (selIter s level).2 := rfl

theorem iterIndex_succ (level : Int) (k : Nat) (s : Int) :
    iterIndex level (k + 1) s = iterIndex level k (selIter s level).2 := rfl

theorem slotAt_succ (p : Params) (level : Int) (cat : Category) (k : Nat) (s : Int) :
    slotAt p level cat (k + 1) s = slotAt p level cat k (selIter s level).2 := rfl

/-- After at least one iteration the state is reduced, so it fits the register. -/
theorem iterState_bounds (level : Int) (k : Nat) (s : Int) : IsReduced (iterState level (k + 1) s) := by
  induction k generalizing s with
  | zero => exact selIter_state_bounds s level
  | succ k ih => exact ih _

/-- One turn of the loop with the parameters of a legal block: it reads a slot, and a blank one turns again. -/
theorem selLoop_succ {p : Params} (hp : p.wf) (level : Int) (cat : Category) (n : Nat) (s : Int) :
    ∃ ch, slotAt p level cat 0 s = some ch ∧
      selLoop p level cat (n + 1) s =
        if ch = blank then selLoop p level cat n (selIter s level).2 else .found ch (selIter s level).2 := by
  have hi := selIter_index_bounds s level
  obtain ⟨ch, h⟩ := tableRead_isSome hp cat hi.1 hi.2
  exact ⟨ch, h, by simp only [selLoop, h]⟩

/-- Where nothing is accepted, the step is the host's next move. -/
theorem step_of_acceptsNothing {s : State} (h : AcceptsNothing s) : step s = .next (hostMove s) := by
  rcases step_cases s with ⟨w, rest, hb, hr, hc, _⟩ | ⟨_, e⟩
  · simp [AcceptsNothing, hb, hr, hc] at h
  · exact e

/-- Where a ready block finds a word on its channel, the step runs it. -/
theorem step_of_ready {s : State} {w : CmdWord} {rest : List CmdWord} (h : Ready s) (hc : s.cmds = w :: rest) :
    step s = runWord w (accept rest s) := by
  rcases step_cases s with ⟨w', rest', _, _, hc', e⟩ | ⟨hn, _⟩
  · rw [hc] at hc'; cases hc'; exact e
  · simp [h.1, h.2, hc] at hn

end Sys2Proof.Machine
end

