-- ==== Sys2Proof/Tests/Slice0.lean ====
section
/-! SUPPORT. Tests on fixed values, each expected result taken from the spec's own tables and vectors (named in its comment), and
for every statement of Certificates/Slice0/Obligations.lean that has hypotheses a witness that meets them. -/

namespace Sys2Proof.Tests
open Sys2Proof.Machine

/-- A seeded, idle block whose STATE holds `v`. -/
def seededAt (v : Int) : State := { State.reset with state := toBits32 v, seeded := true }

/-- STATE as an integer and the response word a next state shows; `none` where the outcome is no next state. -/
def observe : Outcome → Option (Int × Option RspWord)
  | .next t => some (readState t, t.rsp)
  | .fault _ => none
  | .refused _ => none

/-! ## WellFormed: an operand one beyond either end of 32 bits is refused (30_encoding.md R65) -/

theorem test_seed_too_large : wellFormed (.seed 2147483648) = false := by decide
theorem test_seed_too_small : wellFormed (.seed (-2147483649)) = false := by decide
theorem test_rnd_too_large : wellFormed (.rnd 2147483648) = false := by decide
theorem test_rnd_too_small : wellFormed (.rnd (-2147483649)) = false := by decide
theorem test_select_too_large : wellFormed (.select 2147483648 .resident) = false := by decide
theorem test_select_too_small : wellFormed (.select (-2147483649) .wandering) = false := by decide
theorem test_well_formed_ends :
    wellFormed (.seed (-2147483648)) = true ∧ wellFormed (.rnd 2147483647) = true ∧
    wellFormed (.select 2147483647 .wandering) = true ∧ wellFormed .draw = true := by decide
/-- A parameter set with a short table or a cap of zero is refused (00_scope.md R5). -/
theorem test_params_ill_formed :
    ¬ ({ params with resTable := params.resTable.tail } : Params).wf ∧
    ¬ ({ params with wanTable := [] } : Params).wf ∧ ¬ ({ params with maxIter := some 0 } : Params).wf := by decide

/-! ## Decoding: words written out from R63 and R66, OPC, ZERO, W, IMM -/

/-- SEED 42: 00000001, 23 zeros, 0, 42. -/
theorem test_decode_seed :
    decode 0b0000000100000000000000000000000000000000000000000000000000101010#64 = some (.seed 42) := by decide
/-- DRAW: 00000010 and 56 zeros. -/
theorem test_decode_draw :
    decode 0b0000001000000000000000000000000000000000000000000000000000000000#64 = some .draw := by decide
/-- RND −7: 00000011, 23 zeros, 0, the pattern of −7. -/
theorem test_decode_rnd :
    decode 0b0000001100000000000000000000000011111111111111111111111111111001#64 = some (.rnd (-7)) := by decide
/-- SELECT 26, wand: 00000100, 23 zeros, 1, 26. -/
theorem test_decode_select :
    decode 0b0000010000000000000000000000000100000000000000000000000000011010#64 = some (.select 26 .wandering) := by decide
/-- SELECT 3, res (95_test_vectors.md V5). -/
theorem test_decode_select_res : decode 0x0400000000000003#64 = some (.select 3 .resident) := by decide
/-- The illegal words of 95_test_vectors.md V5. -/
theorem test_decode_illegal :
    ([0x0000000000000000#64, 0x0500000000000001#64, 0xFF00000000000001#64, 0x0100000100000005#64,
           0x0300000100000005#64, 0x0200000000000001#64, 0x0200000100000000#64, 0x0400000200000003#64,
           0x0480000000000003#64] : List CmdWord).all (fun w => (decode w).isNone) = true := by decide
/-- The worked encodings of 30_encoding.md section 8, the other way. -/
theorem test_encode :
    encode (.seed (-1)) = 0x01000000FFFFFFFF#64 ∧ encode .draw = 0x0200000000000000#64 ∧
    encode (.rnd 5) = 0x0300000000000005#64 ∧ encode (.select 26 .wandering) = 0x040000010000001A#64 := by decide
/-- The table's rows, numbered as it numbers them. -/
theorem test_decodeTableWord :
    decodeTableWord 64 0x010000000000002A = some (.seed 42) ∧ decodeTableWord 64 0x0400000100000003 =
      some (.select 3 .wandering) ∧ decodeTableWord 8 0x0200000000000000 = none := by decide

/-! ## Assembly text (30_encoding.md R70) -/

theorem test_assemble_seed :
    assembleLine ['S', 'E', 'E', 'D', ' ', '-', '4', '2', ' ', '#', 'x'] = .command (.seed (-42)) := by decide
theorem test_assemble_hex : assembleLine ['R', 'N', 'D', ' ', '0', 'x', '1', 'A'] = .command (.rnd 26) := by decide
theorem test_assemble_select :
    assembleLine ['S', 'E', 'L', 'E', 'C', 'T', ' ', '2', '6', ',', ' ', 'w', 'a', 'n', 'd'] =
      .command (.select 26 .wandering) := by decide
/-- A small mnemonic, an operand of 2^31, a command with no operand, and a comment alone. -/
theorem test_assemble_errors :
    assembleLine ['d', 'r', 'a', 'w'] = .error ∧
    assembleLine ['S', 'E', 'E', 'D', ' ', '2', '1', '4', '7', '4', '8', '3', '6', '4', '8'] = .error ∧
    assembleLine ['R', 'N', 'D'] = .error ∧ assembleLine [' ', '#', ' ', 'n'] = .empty := by decide

/-! ## The commands -/

/-- 95_test_vectors.md V5: SEED −2147483648 takes the raw operand. -/
theorem test_seed_most_negative : observe (exec (.seed (-2147483648)) State.reset) = some (-2147483648, some 0x0#64) := by decide
/-- V5: SEED 2796203 is not reduced until the first draw. -/
theorem test_seed_not_reduced : observe (exec (.seed 2796203) (seededAt 7)) = some (2796203, some 0x0#64) := by decide
/-- V2: a negative state truncates toward zero; a floored remainder would give 1925239. -/
theorem test_draw_negative :
    observe (exec .draw (seededAt (-1953125))) = some (-870964, some 0x00000000FFF2B5CC#64) := by decide
/-- V2: the product of 17179870 needs more than 32 bits and must not wrap. -/
theorem test_draw_wide_product : observe (exec .draw (seededAt 17179870)) = some (2796049, some 0x00000000002AAA11#64) := by decide
/-- V3: the mask turns a negative sum into 2^31 + sum. -/
theorem test_rnd_negative_sum :
    observe (exec (.rnd 2147483647) (seededAt (-42))) = some (-656250, some 2146822148#64) := by decide
/-- V4: RND −7 responds 0 and makes no draw, on an unseeded block too. -/
theorem test_rnd_degenerate :
    observe (exec (.rnd (-7)) (seededAt 1065973)) = some (1065973, some 0x0#64) ∧
    observe (exec (.rnd 0) State.reset) = some (0, some 0x0#64) := by decide
/-- V7 b: the repaired slot of the resident table is read in iteration 1, `K` is found in iteration 2. -/
theorem test_select_repaired_slot :
    observe (exec (.select 2 .resident) (seededAt 11)) = some (615760, some 0x000000000000004B#64) := by decide
/-- V9: the zero state at level 7 of the resident table is exhausted after 64 iterations. -/
theorem test_select_zero_state :
    observe (exec (.select 7 .resident) (seededAt 0)) = some (0, some 0x0400000000000000#64) := by decide +kernel
/-- V10: with a cap of 19 the longest wandering selection is exhausted, STATE keeping its 102 draws. -/
theorem test_select_cap_19 :
    observe (selectWith { params with maxIter := some 19 } 28 .wandering (seededAt (-1768004))) =
      some (-2622852, some 0x0400000000000000#64) := by decide +kernel

/-! ## The ROM and the step -/

/-- 20_memory.md R40: both ends of both tables, and the holes beside them. -/
theorem test_rom_map :
    memRead params 0 = some 0x4B#8 ∧ memRead params 25 = some 0x44#8 ∧ memRead params 26 = none ∧
    memRead params 31 = none ∧ memRead params 32 = some 0x4B#8 ∧ memRead params 57 = some 0x20#8 ∧
    memRead params 58 = none ∧ memRead params 64 = none := by decide
/-- 95_test_vectors.md P4, commands 1, 5 and 9: the first command after reset, and a word that spells none. -/
theorem test_first_command_after_reset :
    observe (step (State.reset.withFetchWord 64 0x0200000000000000)) = some (0, some 0x0200000000000000#64) ∧
    observe (step (State.reset.withFetchWord 64 0x0400000000000000)) = some (0, some 0x0300000000000000#64) ∧
    observe (step (State.reset.withFetchWord 64 0x0100000100000005)) = some (0, some 0x0100000000000000#64) := by decide
/-- P1, command 1, through the channel: BUSY rises, the word leaves the channel, the block is seeded. -/
theorem test_step_seed :
    ∃ t, step (State.reset.withFetchWord 64 0x0100000000000001) = .next t ∧ t.busy = true ∧ t.cmds = [] ∧
      t.seeded = true ∧ t.state = 1#32 ∧ t.rsp = some 0x0#64 := ⟨_, rfl, by decide⟩
/-- 70_reset_and_hazards.md R142: reset withdraws the response and unseeds the block. -/
theorem test_step_reset :
    ∃ t, step { seededAt 5 with busy := true, rsp := some 0x5#64, host := [.setRst true] } = .next t ∧
      t.seeded = false ∧ t.busy = false ∧ t.rsp = none ∧ t.rst = true ∧ t.taken = [] := ⟨_, rfl, by decide⟩

/-! ## Witnesses: concrete states and operands that meet the hypotheses of each statement -/

/-- A busy block whose response waits. -/
def answered : State := { seededAt 5 with busy := true, rsp := some 0x5#64 }

/-- A ready block with a word on its channel, and a host that will take the response. -/
def offered (w : CmdWord) : State := { State.reset with cmds := [w], host := [.takeRsp] }

theorem test_witness_SignedPatternsAndIntegersAgree : Fits32 (-2147483648) ∧ Fits32 (-1) ∧ Fits32 0 ∧ Fits32 2147483647 := by decide
theorem test_witness_TruncatingDivisionAndRemainder : (0 : Int) < 3 ∧ (0 : Int) ≤ 7 ∧ (-7 : Int) ≤ 0 := by decide
theorem test_witness_MaskKeepsTheLow31Bits : 32 ≤ 32 ∧ (0 : Int) ≤ 0 ∧ (1 : Int) ≤ 1 := by decide
theorem test_witness_ArithmeticStaysWithinItsWidths :
    IsReduced 2796202 ∧ IsReduced (-2796202) ∧ (1 : Int) ≤ 1 ∧ (1 : Int) ≤ 2147483647 := by decide
theorem test_witness_StepLaws : (0 : Int) ≤ 0 ∧ (0 : Int) < 1 ∧ (-1 : Int) < 0 := by decide
theorem test_witness_DrawsHaveFullPeriod :
    IsReduced (-2796202) ∧ (-2796202 : Int) ≠ 0 ∧ IsReduced (-1) ∧ (0 : Int) < -2796202 * -1 ∧ (1 : Int) ≤ 1 := by decide
/-- Each clause at its boundary: range 0 and 1; the least range that returns the sum itself; a negative state and a multiple. -/
theorem test_witness_RndLaws :
    (0 : Int) < 1 ∧ (1 : Int) ≤ 1 ∧ (0 : Int) ≤ 0 ∧ (5592404 : Int) < 5592405 ∧ (-1 : Int) < 0 ∧
    ¬ (2796203 : Int) ∣ -1 ∧ (2796203 : Int) ∣ -2796203 := by decide
theorem test_witness_DecodeAndEncodeAgree :
    WellFormed (.seed (-2147483648)) ∧ WellFormed .draw ∧ WellFormed (.rnd 2147483647) ∧
    WellFormed (.select 2147483647 .wandering) ∧ decode 0x0400000180000000#64 = some (.select (-2147483648) .wandering) := by decide
theorem test_witness_AssemblyTextRoundTrip :
    WellFormed (.select (-2147483648) .resident) ∧
    assembleLine (asmText (.select (-2147483648) .resident)) = .command (.select (-2147483648) .resident) ∧
    asmTextHex true (.rnd 26) = ['R', 'N', 'D', ' ', '0', 'x', '1', 'A'] ∧
    assembleLine (asmTextHex false (.select 2147483647 .wandering)) = .command (.select 2147483647 .wandering) := by decide
theorem test_witness_RomMapIsTheSpecs : params.wf ∧ (0 : Int) ≤ 0 ∧ (0 : Int) ≤ 25 ∧ (25 : Int) ≤ 25 := by decide
theorem test_witness_SeedCommand :
    (2796203 : Int) ∣ 767 * 2796203 ∧ WellFormed (.seed (767 * 2796203)) ∧ WellFormed (.seed 2147483647) ∧ WellFormed (.seed (-2147483648)) := by decide
theorem test_witness_DrawCommand : State.reset.seeded = false ∧ (seededAt 1).seeded = true := by decide
theorem test_witness_RndCommand :
    WellFormed (.rnd 0) ∧ (0 : Int) < 1 ∧ WellFormed (.rnd 1) ∧ (1 : Int) ≤ 1 ∧ State.reset.seeded = false ∧
    (seededAt 1).seeded = true := by decide
theorem test_witness_SelIterGuarantees : (1 : Int) ≤ 1 ∧ (1 : Int) ≤ 32 := by decide
/-- The clauses of SelIterGuarantees on the depth: no clamp, low clamp, high clamp (95_test_vectors.md V8). -/
theorem test_witness_SelIterGuarantees_depth :
    (6 + ((selJitter 42).1 - 5) = 1) ∧ (22 + ((selJitter 368).1 - 5) = 26) ∧ (5 + ((selJitter 42).1 - 5) < 1) ∧
    (26 < 23 + ((selJitter 368).1 - 5)) := by decide
theorem test_witness_SelLoopFindsTheFirstSpecies :
    params.wf ∧ selLoop params 2 .resident 2 11 = .found 0x4B#8 615760 ∧
    selLoop params 2 .resident 1 11 = .exhausted 2209895 := by decide
/-- Found at iteration 1 + 1 (V7 b), and all 64 slots blank (V9). -/
theorem test_witness_SelectCommand :
    WellFormed (.select 0 .resident) ∧ WellFormed (.select 2 .resident) ∧ (seededAt 11).seeded = true ∧
    slotAt params 2 .resident 0 (seededAt 11).state.toInt = some 0x20#8 ∧
    slotAt params 2 .resident 1 (seededAt 11).state.toInt = some 0x4B#8 := by decide
theorem test_witness_SelectCommand_exhausted :
    ∀ j < 64, slotAt params 7 .resident j (seededAt 0).state.toInt = some 0x20#8 := by decide +kernel
theorem test_witness_SelectAnswersASpeciesOfItsTable : (1 : Int) ≤ 1 ∧ (seededAt 0).seeded = true := by decide
theorem test_witness_ZeroStateSelections :
    WellFormed (.select 1 .resident) ∧ (seededAt 2796203).seeded = true ∧
    (2796203 : Int) ∣ (seededAt 2796203).state.toInt ∧ ((31 : Int), Category.wandering) ∈ zeroStatePairs ∧
    ((31 : Int), Category.resident) ∉ zeroStatePairs := by decide
theorem test_witness_OneIterationSelections :
    WellFormed (.select 26 .resident) ∧ WellFormed (.select 5 .wandering) ∧ (26 : Int) ≤ 26 ∧ (5 : Int) ≤ 5 ∧
    (seededAt 1).seeded = true := by decide
/-- SELECT 2, res from 11 is found within a cap of 2; 3 and none are larger caps. -/
theorem test_witness_LargerCapsChangeNothing :
    params.wf ∧ (1 : Int) ≤ 2 ∧ (seededAt 11).seeded = true ∧ (∀ m, some 3 = some m → 2 ≤ m) ∧
    ∃ t, selectWith { params with maxIter := some 2 } 2 .resident (seededAt 11) = .next t ∧ shownStatus t = 0#8 :=
  ⟨by decide, by decide, by decide, fun m h => by cases h; decide, _, rfl, by decide⟩
theorem test_witness_UncappedSelectNeverRespondsWhenItNeverEnds :
    ({ params with maxIter := none } : Params).wf ∧ (seededAt 11).seeded = true ∧
    slotAt { params with maxIter := none } 2 .resident 0 (seededAt 11).state.toInt = some 0x20#8 ∧
    slotAt { params with maxIter := none } 2 .resident 1 (seededAt 11).state.toInt = some 0x4B#8 := by decide
theorem test_witness_CommandsAdvanceByDraws : (seededAt 1).seeded = true ∧ (1 : Int) ≤ 1 := by decide
theorem test_witness_CommandFrame :
    (∃ t, exec .draw (seededAt 1) = .next t ∧ t.state = 125#32) ∧ (∀ imm, Instr.draw ≠ .seed imm) ∧
    (∃ t, exec (.seed 0) State.reset = .next t ∧ t.seeded = true) := ⟨⟨_, rfl, by decide⟩, fun _ => by simp, _, rfl, by decide⟩
/-- The sign clauses: a positive, a negative and a zero state that is drawn from. -/
theorem test_witness_StateSignAndZeroArePreserved :
    (∀ imm, Instr.draw ≠ .seed imm) ∧ IsReduced (seededAt 1).state.toInt ∧ 0 < (seededAt 1).state.toInt ∧
    (seededAt (-1)).state.toInt < 0 ∧ (seededAt 0).state.toInt = 0 := ⟨fun _ => by simp, by decide⟩
/-- A response of each status a command can fault with: NotSeeded, InvalidLevel; for Exhausted see below. -/
theorem test_witness_FaultsArePreciseAndNotSticky :
    (∃ t, exec .draw State.reset = .next t ∧ shownStatus t = 2#8) ∧
    (∃ t, exec (.select 0 .resident) State.reset = .next t ∧ shownStatus t = 3#8) :=
  ⟨⟨_, rfl, by decide⟩, ⟨_, rfl, by decide⟩⟩
theorem test_witness_SeedsWithEqualRemaindersRespondAlike :
    seededAt 2796204 = { seededAt 1 with state := (seededAt 2796204).state } ∧
    trem (seededAt 1).state.toInt 2796203 = trem (seededAt 2796204).state.toInt 2796203 := by decide
theorem test_witness_StepRunsTheDecodedCommand :
    Ready (offered 0x0200000000000000#64) ∧ (offered 0x0200000000000000#64).cmds = 0x0200000000000000#64 :: [] ∧
    decode 0x0200000000000000#64 = some .draw := by decide
theorem test_witness_IllegalWordsAreTheFourCasesAndAreAnswered :
    Ready (offered 0x0#64) ∧ (offered 0x0#64).cmds = 0x0#64 :: [] ∧ decode 0x0#64 = none := by decide
theorem test_witness_PresentedWordsWait :
    AcceptsNothing State.reset ∧ State.reset.host = [] ∧ AcceptsNothing answered ∧
    ({ answered with host := [.present 0x0#64] } : State).host = .present 0x0#64 :: [] := by decide
theorem test_witness_ResponsesAreTransferredInOrder :
    AcceptsNothing { answered with host := [.takeRsp] } ∧ answered.rsp = some 0x5#64 ∧
    AcceptsNothing { State.reset with host := [.takeRsp] } ∧ State.reset.rsp = none := by decide
theorem test_witness_ResetAbandonsTheCommand :
    AcceptsNothing { answered with host := [.setRst true, .present 0x0#64] } ∧
    Ready (offered 0x0100000000000001#64) ∧
    ({ offered 0x0100000000000001#64 with host := [.setRst true] } : State).host = .setRst true :: [] ∧
    AcceptsNothing { State.reset with rst := true, host := [.setRst false] } := by decide
/-- Reset is held while the host presents a word and waits for a response. -/
theorem test_witness_HeldResetAcceptsNothing :
    let s : State := { State.reset with rst := true, host := [.present 0x0#64, .takeRsp, .setRst false] }
    Inv s ∧ s.rst = true ∧ HostEvent.setRst false ∉ s.host.take 2 :=
  ⟨⟨rfl, fun r h => by simp [State.reset] at h, fun r h => by simp [State.reset] at h, fun _ => ⟨rfl, rfl⟩⟩, rfl, by decide⟩
theorem test_witness_EveryStepKeepsInv : ∃ t, Inv State.reset ∧ step State.reset = .next t :=
  ⟨_, ⟨rfl, fun r h => by simp [State.reset] at h, fun r h => by simp [State.reset] at h, fun h => by simp [State.reset] at h⟩, rfl⟩
/-- SEEDED set by an accepted SEED, and cleared by reset. -/
theorem test_witness_SeededSetBySeedClearedByReset :
    (∃ t, step (offered 0x0100000000000001#64) = .next t ∧ (offered 0x0100000000000001#64).seeded = false ∧ t.seeded = true) ∧
    (∃ t, step { answered with host := [.setRst true] } = .next t ∧ answered.seeded = true ∧ t.seeded = false) :=
  ⟨⟨_, rfl, by decide⟩, ⟨_, rfl, by decide⟩⟩
theorem test_witness_StepFrame :
    (∃ t, step (offered 0x0200000000000000#64) = .next t) ∧ ¬ AcceptsNothing (offered 0x0200000000000000#64) ∧
    (∃ t, step answered = .next t) ∧ AcceptsNothing answered ∧ (∀ rest, answered.host ≠ .setRst true :: rest) :=
  ⟨⟨_, rfl⟩, by decide, ⟨_, rfl⟩, by decide, fun _ h => by simp [answered, seededAt, State.reset] at h⟩
theorem test_witness_FaultsArePreciseAndNotSticky_exhausted :
    ∃ t, exec (.select 7 .resident) (seededAt 0) = .next t ∧ shownStatus t = 4#8 := ⟨_, rfl, by decide +kernel⟩
/-- SELECT 0 on an unseeded block: the operand condition is met before the SEEDED check (V5). -/
theorem test_witness_StatusFollowsTheOrderOfChecks :
    Ready (offered 0x0400000000000000#64) ∧ (offered 0x0400000000000000#64).seeded = false ∧
    (offered 0x0400000000000000#64).cmds = 0x0400000000000000#64 :: [] ∧
    decode 0x0400000000000000#64 = some (.select 0 .resident) := by decide
theorem test_witness_SeededBlockNeverAnswersNotSeeded :
    ∃ t, (seededAt 1).seeded = true ∧ exec (.rnd 5) (seededAt 1) = .next t := ⟨_, by decide, rfl⟩
theorem test_witness_UnseededStateIsInvisible :
    visible State.reset = visible { State.reset with state := 7#32 } ∧ State.reset ≠ { State.reset with state := 7#32 } := by decide
theorem test_witness_AcceptedCommandIsAnswered :
    Ready (offered 0x0200000000000000#64) ∧ (offered 0x0200000000000000#64).cmds = 0x0200000000000000#64 :: [] ∧
    (offered 0x0200000000000000#64).host = .takeRsp :: [] := by decide

end Sys2Proof.Tests
end

section
/-! PROOF. What every command comes to and what every step answers (00_scope.md R14), one lemma per shared operation and per
command, cited by the statements about all commands at once. -/

namespace Sys2Proof.Machine

/-! ## Words: the fields of a response (30_encoding.md R64) and the operands of a decoded command (R65) -/

@[simp] theorem rspStatus_formatR (st : Status) (result : Word) : rspStatus (formatR st result) = st.code := by
  apply BitVec.eq_of_getLsbD_eq
  intro k hk
  rw [rspStatus, BitVec.getLsbD_extractLsb', getLsbD_formatR, if_neg (by omega), if_neg (by omega)]
  simp [hk]

@[simp] theorem rspZero_formatR (st : Status) (result : Word) : rspZero (formatR st result) = 0#24 := by
  apply BitVec.eq_of_getLsbD_eq
  intro k hk
  rw [rspZero, BitVec.getLsbD_extractLsb', getLsbD_formatR, if_neg (by omega), if_pos (by omega)]
  simp

@[simp] theorem rspResult_formatR (st : Status) (result : Word) : rspResult (formatR st result) = result := by
  apply BitVec.eq_of_getLsbD_eq
  intro k hk
  rw [rspResult, BitVec.getLsbD_extractLsb', getLsbD_formatR]
  simp [hk]

theorem Status.code_toNat_le (st : Status) : st.code.toNat ≤ 4 := by
  cases st <;> decide

/-- A response is well formed where it is OK or its RESULT is 0 (60_exceptions.md R120). -/
theorem rspWf_formatR {st : Status} {result : Word} (h : st = .ok ∨ result = 0#32) : RspWf (formatR st result) := by
  refine ⟨by rw [rspStatus_formatR]; exact st.code_toNat_le, rspZero_formatR _ _, fun hne => ?_⟩
  rw [rspStatus_formatR] at hne
  rw [rspResult_formatR]
  exact h.resolve_left fun hok => hne (by rw [hok]; rfl)

/-- Whatever the decoder gives is a command the block can be given: its operand is read from 32 bits (30_encoding.md R65). -/
theorem wellFormed_of_decode {w : CmdWord} {i : Instr} (h : decode w = some i) : WellFormed i := by
  have hfit : decide (Fits32 (sext32 (immField w))) = true := decide_eq_true (sext32_fits _)
  unfold decode at h
  split_ifs at h
  · cases h; exact hfit
  · cases h; rfl
  · cases h; exact hfit
  · cases h; exact hfit

/-! ## The commands one by one: every way each of them ends -/

/-- SEED in its one form (40_generator.md R86). -/
theorem exec_seed (imm : Int) (s : State) :
    exec (.seed imm) s = .next (respond 0#32 (setSeeded (writeState imm s))) := rfl

/-- DRAW raises NotSeeded or makes one draw (40_generator.md R87). -/
theorem exec_draw_cases (s : State) :
    (s.seeded = true ∧ exec .draw s =
      .next (respond (toBits32 (lcgStep (readState s))) (writeState (lcgStep (readState s)) s))) ∨
    (s.seeded = false ∧ exec .draw s = .next (raise .notSeeded s)) :=
  ifSeeded_cases s _

/-- RND responds 0 at once, or raises NotSeeded, or makes its draws (40_generator.md R88). -/
theorem exec_rnd_cases (imm : Int) (s : State) :
    (imm < 1 ∧ exec (.rnd imm) s = .next (respond 0#32 s)) ∨
    (1 ≤ imm ∧ s.seeded = false ∧ exec (.rnd imm) s = .next (raise .notSeeded s)) ∨
    (1 ≤ imm ∧ s.seeded = true ∧ exec (.rnd imm) s =
      .next (respond (toBits32 (lcgRnd (readState s) imm).1) (writeState (lcgRnd (readState s) imm).2 s))) := by
  rcases ifRange_cases imm s _ with ⟨himm, hrange⟩ | ⟨himm, hrange⟩
  · rcases ifSeeded_cases s _ with ⟨hs, hrun⟩ | ⟨hs, hrun⟩
    · exact .inr (.inr ⟨himm, hs, hrange.trans hrun⟩)
    · exact .inr (.inl ⟨himm, hs, hrange.trans hrun⟩)
  · exact .inl ⟨himm, hrange⟩

/-- The loop never reads an address without a byte, since the index of an iteration is a slot of the table (41_selector.md R101). -/
theorem selLoop_ne_hole {p : Params} (hp : p.wf) (level : Int) (cat : Category) (n : Nat) (s : Int) (addr : Nat) :
    selLoop p level cat n s ≠ .hole addr := by
  induction n generalizing s with
  | zero => exact fun h => nomatch h
  | succ n ih =>
    obtain ⟨ch, -, hturn⟩ := selLoop_succ hp level cat n s
    rw [hturn]
    split
    · exact ih _
    · exact fun h => nomatch h

/-- SELECT with the parameters of a legal block: InvalidLevel, NotSeeded, a species found, or the iterations ran out
(41_selector.md R104, R110). -/
theorem selectWith_cases {p : Params} (hp : p.wf) (imm : Int) (cat : Category) (s : State) :
    (imm < 1 ∧ selectWith p imm cat s = .next (raise .invalidLevel s)) ∨
    (1 ≤ imm ∧ s.seeded = false ∧ selectWith p imm cat s = .next (raise .notSeeded s)) ∨
    (1 ≤ imm ∧ s.seeded = true ∧ ∃ ch v,
      selLoop p imm cat (iterationBound p.maxIter) (readState s) = .found ch v ∧
      selectWith p imm cat s = .next (respond (ch.setWidth 32) (writeState v s))) ∨
    (1 ≤ imm ∧ s.seeded = true ∧ ∃ v,
      selLoop p imm cat (iterationBound p.maxIter) (readState s) = .exhausted v ∧
      selectWith p imm cat s = .next (ranOut p.maxIter v s)) := by
  unfold selectWith
  rcases ifLevel_cases imm s _ with ⟨himm, hlevel⟩ | ⟨himm, hlevel⟩
  · rw [hlevel]
    rcases ifSeeded_cases s _ with ⟨hs, hrun⟩ | ⟨hs, hrun⟩
    · rw [hrun]
      cases hloop : selLoop p imm cat (iterationBound p.maxIter) (readState s) with
      | found ch v => exact .inr (.inr (.inl ⟨himm, hs, ch, v, rfl, rfl⟩))
      | exhausted v => exact .inr (.inr (.inr ⟨himm, hs, v, rfl, rfl⟩))
      | hole addr => exact absurd hloop (selLoop_ne_hole hp _ _ _ _ _)
    · exact .inr (.inl ⟨himm, hs, hrun⟩)
  · exact .inl ⟨himm, hlevel⟩

/-- SELECT of the block itself, whose cap is 64 iterations. -/
theorem exec_select_cases (imm : Int) (cat : Category) (s : State) :
    (imm < 1 ∧ exec (.select imm cat) s = .next (raise .invalidLevel s)) ∨
    (1 ≤ imm ∧ s.seeded = false ∧ exec (.select imm cat) s = .next (raise .notSeeded s)) ∨
    (1 ≤ imm ∧ s.seeded = true ∧ ∃ ch v, selLoop params imm cat 64 (readState s) = .found ch v ∧
      exec (.select imm cat) s = .next (respond (ch.setWidth 32) (writeState v s))) ∨
    (1 ≤ imm ∧ s.seeded = true ∧ ∃ v, selLoop params imm cat 64 (readState s) = .exhausted v ∧
      exec (.select imm cat) s = .next (raise .exhausted (writeState v s))) :=
  selectWith_cases params_wf imm cat s

/-! ## All commands at once -/

/-- SEEDED after a command: SEED sets it, no other command touches it (10_state.md R22). -/
def seededAfter : Instr → Bool → Bool
  | .seed _, _ => true
  | .draw, b | .rnd _, b | .select _ _, b => b

theorem seededAfter_of_ne_seed {i : Instr} (h : ∀ imm, i ≠ .seed imm) (b : Bool) : seededAfter i b = b := by
  cases i with
  | seed imm => exact absurd rfl (h imm)
  | draw | rnd | select => rfl

/-- Every command ends, from every state: it writes STATE, SEEDED as `seededAfter` says, and one response, whose RESULT is 0
unless it is OK. -/
theorem exec_ends (i : Instr) (s : State) : ∃ v st result, (st = .ok ∨ result = 0#32) ∧
    exec i s = .next { s with state := v, seeded := seededAfter i s.seeded, rsp := some (formatR st result) } := by
  cases i with
  | seed imm => exact ⟨_, _, _, .inl rfl, exec_seed imm s⟩
  | draw =>
    rcases exec_draw_cases s with ⟨-, h⟩ | ⟨-, h⟩
    · exact ⟨_, _, _, .inl rfl, h⟩
    · exact ⟨_, _, _, .inr rfl, h⟩
  | rnd imm =>
    rcases exec_rnd_cases imm s with ⟨-, h⟩ | ⟨-, -, h⟩ | ⟨-, -, h⟩
    · exact ⟨_, _, _, .inl rfl, h⟩
    · exact ⟨_, _, _, .inr rfl, h⟩
    · exact ⟨_, _, _, .inl rfl, h⟩
  | select imm cat =>
    rcases exec_select_cases imm cat s with ⟨-, h⟩ | ⟨-, -, h⟩ | ⟨-, -, ch, v, -, h⟩ | ⟨-, -, v, -, h⟩
    · exact ⟨_, _, _, .inr rfl, h⟩
    · exact ⟨_, _, _, .inr rfl, h⟩
    · exact ⟨_, _, _, .inl rfl, h⟩
    · exact ⟨_, _, _, .inr rfl, h⟩

/-- An accepted word is answered, whether it spells a command or not. -/
theorem runWord_answers (w : CmdWord) (s : State) : ∃ t, runWord w s = .next t := by
  unfold runWord
  cases decode w with
  | none => exact ⟨_, rfl⟩
  | some i =>
    obtain ⟨v, st, result, -, h⟩ := exec_ends i s
    exact ⟨_, h⟩

/-! ## The statements about commands and steps -/

/-- Settles O30: the frame, SEEDED and the response are read off `exec_ends`. -/
theorem commandFrame : Obligations.CommandFrame := by
  intro i s t ht
  obtain ⟨v, st, result, hst, h⟩ := exec_ends i s
  obtain rfl := Host.Outcome.next.inj (ht.symm.trans h)
  refine ⟨rfl, fun hne => seededAfter_of_ne_seed hne _, ?_, _, rfl, rspWf_formatR hst⟩
  rintro imm rfl
  rfl

/-- Settles O31: no command faults or is refused, as `exec_ends` says. -/
theorem everyCommandCompletes : Obligations.EveryCommandCompletes := by
  intro i s
  obtain ⟨v, st, result, -, h⟩ := exec_ends i s
  exact ⟨_, _, h, rfl⟩

/-- Settles O42: a step runs an accepted word, which is answered, or is a move of the host. -/
theorem everyStepAnswers : Obligations.EveryStepAnswers := by
  intro s
  rcases step_cases s with ⟨w, rest, -, -, -, h⟩ | ⟨-, h⟩
  · rw [h]
    exact runWord_answers w _
  · exact ⟨_, h⟩

/-- Settles O35: the step of a ready block runs its word, and a decoded word runs as its command. -/
theorem stepRunsTheDecodedCommand : Obligations.StepRunsTheDecodedCommand := by
  intro s w rest i hready hcmds hdec
  refine ⟨wellFormed_of_decode hdec, ?_⟩
  rw [step_of_ready hready hcmds, runWord, hdec]
  rfl

end Sys2Proof.Machine
end

section
/-! PROOF. The numbers of 00_scope.md section 5: patterns and integers (R7), truncating division (R8), the mask (R9). -/

namespace Sys2Proof.Machine

/-! ## The two readings of 32 bits (R7) -/

/-- The signed reading from the unsigned one. -/
theorem sext32_eq (b : Word) :
    sext32 b = if b.toNat < 2147483648 then (b.toNat : Int) else (b.toNat : Int) - 4294967296 := by
  rw [sext32, BitVec.toInt_eq_toNat_cond]
  split <;> split <;> omega

/-- The unsigned reading of the pattern of `v` is `v` modulo 2^32. -/
theorem toNat_toBits32 (v : Int) : ((toBits32 v).toNat : Int) = v % 4294967296 := by
  rw [toBits32, BitVec.toNat_ofInt]
  exact Int.toNat_of_nonneg (Int.emod_nonneg _ (by decide))

/-- Settles O1: `sext32_eq`, `toNat_toBits32` and the two round trips. -/
theorem signedPatternsAndIntegersAgree : Obligations.SignedPatternsAndIntegersAgree := by
  refine ⟨sext32_eq, fun b => ⟨sext32_fits b, toBits32_sext32 b⟩, fun v hv => ⟨sext32_toBits32 hv, ?_⟩⟩
  rw [toNat_toBits32]
  split <;> omega

/-! ## Truncating remainder (R8) -/

theorem neg_lt_trem {n : Int} (a : Int) (hn : 0 < n) : -n < trem a n := by
  rw [trem_eq_tmod]
  exact Int.lt_tmod_of_pos a hn

theorem trem_lt {n : Int} (a : Int) (hn : 0 < n) : trem a n < n := by
  rw [trem_eq_tmod]
  exact Int.tmod_lt_of_pos a hn

theorem trem_nonneg {a : Int} (n : Int) (ha : 0 ≤ a) : 0 ≤ trem a n := by
  rw [trem_eq_tmod]
  exact Int.tmod_nonneg n ha

theorem trem_neg (a n : Int) : trem (-a) n = -trem a n := by
  rw [trem_eq_tmod, trem_eq_tmod, Int.neg_tmod]

theorem trem_nonpos {a : Int} (n : Int) (ha : a ≤ 0) : trem a n ≤ 0 := by
  have h := trem_nonneg n (neg_nonneg.mpr ha)
  rw [trem_neg] at h
  omega

/-- On a dividend that is not negative the truncating remainder is the floored one (R9 b). -/
theorem trem_eq_emod {a : Int} (n : Int) (ha : 0 ≤ a) : trem a n = a % n := by
  rw [trem_eq_tmod, Int.tmod_eq_emod_of_nonneg ha]

/-- Settles O2: quotient and remainder are Lean's truncating ones; the rule's examples are evaluated. -/
theorem truncatingDivisionAndRemainder : Obligations.TruncatingDivisionAndRemainder := by
  refine ⟨fun a n hn => ?_, by decide, by decide, by decide, by decide⟩
  exact ⟨tdiv_eq_int_tdiv a n, trem_eq_tmod a n, rfl, neg_lt_trem a hn, trem_lt a hn, trem_nonneg n, trem_nonpos n⟩

/-! ## The mask (R9) -/

/-- In a pattern of 32 bits or more the mask constant keeps its value, 31 one bits. -/
theorem toNat_maskConstant {n : Nat} (hn : 32 ≤ n) : (BitVec.ofNat n 0x7fffffff).toNat = 2 ^ 31 - 1 := by
  have : 2 ^ 32 ≤ 2 ^ n := Nat.pow_le_pow_right (by decide) hn
  rw [BitVec.toNat_ofNat]
  exact Nat.mod_eq_of_lt (by omega)

/-- Masking the pattern of `v` at any width of 32 or more is `v mod 2^31`: AND with 31 one bits is the residue modulo 2^31,
which divides 2^n. -/
theorem mask_ofInt {n : Nat} (v : Int) (hn : 32 ≤ n) :
    ((BitVec.ofInt n v &&& BitVec.ofNat n 0x7fffffff).toNat : Int) = maskSum v := by
  have hdvd : ((2 ^ 31 : Nat) : Int) ∣ ((2 ^ n : Nat) : Int) :=
    Int.natCast_dvd_natCast.mpr (Nat.pow_dvd_pow 2 (by omega))
  have hpos : (0 : Int) ≤ v % ((2 ^ n : Nat) : Int) := Int.emod_nonneg _ (by positivity)
  calc ((BitVec.ofInt n v &&& BitVec.ofNat n 0x7fffffff).toNat : Int)
      = (((v % ((2 ^ n : Nat) : Int)).toNat % 2 ^ 31 : Nat) : Int) := by
        rw [BitVec.toNat_and, BitVec.toNat_ofInt, toNat_maskConstant hn, Nat.and_two_pow_sub_one_eq_mod]
    _ = v % ((2 ^ n : Nat) : Int) % ((2 ^ 31 : Nat) : Int) := by rw [Int.natCast_mod, Int.toNat_of_nonneg hpos]
    _ = maskSum v := Int.emod_emod_of_dvd v hdvd

/-- Settles O3: `mask_ofInt`, the division with remainder by 2^31, and `trem_eq_emod`. -/
theorem maskKeepsTheLow31Bits : Obligations.MaskKeepsTheLow31Bits := by
  refine ⟨fun n v hn => mask_ofInt v hn, fun v => ?_, fun m r hm _ => (trem_eq_emod r hm).symm⟩
  obtain ⟨hlow, hhigh⟩ := maskSum_bounds v
  refine ⟨hlow, by omega, v / 2147483648, ?_⟩
  have hdiv : v % 2147483648 + v / 2147483648 * 2147483648 = v := Int.emod_add_ediv_mul v 2147483648
  rw [maskSum, maskSpan]
  omega

end Sys2Proof.Machine
end

section
/-! PROOF. The state of the block (10_state.md): what one step keeps and what it changes, and what of the state can be
observed. -/

namespace Sys2Proof.Machine

/-! ## The run of an accepted word -/

/-- SEEDED after a command is as it was, unless the command is SEED and sets it (10_state.md R22). -/
theorem seededAfter_cases (i : Instr) (b : Bool) :
    seededAfter i b = b ∨ (seededAfter i b = true ∧ ∃ imm, i = .seed imm) := by
  cases i with
  | seed imm => exact .inr ⟨rfl, imm, rfl⟩
  | draw | rnd | select => exact .inl rfl

/-- Every accepted word, legal or not, ends in one response and writes STATE and SEEDED at most; SEEDED only where the word
spells a SEED, and then to 1. -/
theorem runWord_ends (w : CmdWord) (s : State) : ∃ v b st result, (st = .ok ∨ result = 0#32) ∧
    (b = s.seeded ∨ (b = true ∧ ∃ imm, decode w = some (.seed imm))) ∧
    runWord w s = .next { s with state := v, seeded := b, rsp := some (formatR st result) } := by
  unfold runWord
  cases decode w with
  | none => exact ⟨_, _, _, _, .inr rfl, .inl rfl, rfl⟩
  | some i =>
    obtain ⟨v, st, result, hst, h⟩ := exec_ends i s
    refine ⟨v, _, st, result, hst, ?_, h⟩
    exact (seededAfter_cases i s.seeded).imp_right fun ⟨hb, imm, hi⟩ => ⟨hb, imm, congrArg some hi⟩

/-! ## The host's move -/

/-- A transfer changes BUSY, the response channel and the host's record, nothing else (30_encoding.md R61). -/
theorem transfer_frame (s : State) : transfer s =
    { s with busy := (transfer s).busy, rsp := (transfer s).rsp, taken := (transfer s).taken } := by
  rcases transfer_cases s with ⟨-, h⟩ | ⟨r, -, h⟩ <;> rw [h]

/-- A move of the host is a reset, or it leaves STATE and SEEDED alone and takes one event off the host's script. -/
theorem hostMove_reset_or_frame (s : State) :
    (∃ rest, s.host = .setRst true :: rest ∧ hostMove s = enterReset { s with host := rest }) ∨
    ((hostMove s).state = s.state ∧ (hostMove s).seeded = s.seeded ∧ (hostMove s).host = s.host.tail) := by
  rcases hostMove_cases s with ⟨hh, h⟩ | ⟨w, rest, hh, h⟩ | ⟨rest, hh, h⟩ | ⟨rest, hh, h⟩ | ⟨rest, hh, h⟩
  · exact .inr (by simp [h, hh])
  · exact .inr (by simp [h, hh])
  · rw [h, hh, transfer_frame]
    exact .inr ⟨rfl, rfl, rfl⟩
  · exact .inl ⟨rest, hh, h⟩
  · exact .inr (by simp [h, hh])

/-! ## The invariant -/

theorem transfer_keeps_inv {s : State} (hs : Inv s) : Inv (transfer s) := by
  rcases transfer_cases s with ⟨-, h⟩ | ⟨r, hr, h⟩
  · rwa [h]
  · rw [h]
    refine ⟨rfl, fun _ h' => (nomatch h'), fun q hq => ?_, fun hrst => ⟨rfl, (hs.held hrst).2⟩⟩
    rcases List.mem_append.mp hq with hq | hq
    · exact hs.taken_wf q hq
    · rw [List.mem_singleton.mp hq]
      exact hs.rsp_wf r hr

theorem enterReset_keeps_inv {s : State} (hs : Inv s) : Inv (enterReset s) :=
  ⟨rfl, fun _ h => (nomatch h), hs.taken_wf, fun _ => ⟨rfl, rfl⟩⟩

/-- The invariant reads neither the host's script nor the words on the command channel. -/
theorem Inv.with_host_cmds {s : State} (hs : Inv s) (host : List HostEvent) (cmds : List CmdWord) :
    Inv { s with host := host, cmds := cmds } :=
  ⟨hs.busy_iff, hs.rsp_wf, hs.taken_wf, hs.held⟩

theorem hostMove_keeps_inv {s : State} (hs : Inv s) : Inv (hostMove s) := by
  rcases hostMove_cases s with ⟨-, h⟩ | ⟨w, rest, -, h⟩ | ⟨rest, -, h⟩ | ⟨rest, -, h⟩ | ⟨rest, -, h⟩ <;> rw [h]
  · exact hs
  · exact hs.with_host_cmds rest _
  · exact transfer_keeps_inv (hs.with_host_cmds rest s.cmds)
  · exact enterReset_keeps_inv (hs.with_host_cmds rest s.cmds)
  · exact ⟨hs.busy_iff, hs.rsp_wf, hs.taken_wf, fun h' => (nomatch h')⟩

/-- An accepted word leaves the block busy with a well-formed response; it is accepted only while reset is released. -/
theorem runWord_accept_keeps_inv {w : CmdWord} {rest : List CmdWord} {s t : State} (hs : Inv s) (hrst : s.rst = false)
    (ht : runWord w (accept rest s) = .next t) : Inv t := by
  obtain ⟨v, b, st, result, hst, -, h⟩ := runWord_ends w (accept rest s)
  obtain rfl := Host.Outcome.next.inj (ht.symm.trans h)
  refine ⟨rfl, fun r hr => ?_, hs.taken_wf, fun h' => ?_⟩
  · rw [← Option.some.inj hr]
    exact rspWf_formatR hst
  · exact absurd (hrst.symm.trans h') Bool.false_ne_true

/-- Settles O41: each of the two kinds of step keeps the invariant. -/
theorem everyStepKeepsInv : Obligations.EveryStepKeepsInv := by
  intro s t hs ht
  rcases step_cases s with ⟨w, rest, -, hrst, -, h⟩ | ⟨-, h⟩
  · exact runWord_accept_keeps_inv hs hrst (h.symm.trans ht)
  · obtain rfl := Host.Outcome.next.inj (h.symm.trans ht)
    exact hostMove_keeps_inv hs

/-! ## What a step changes -/

/-- A step keeps SEEDED, or accepts a SEED and sets it, or is a reset and clears it. -/
theorem step_seeded_cases {s t : State} (ht : step s = .next t) :
    t.seeded = s.seeded ∨
    (t.seeded = true ∧ ∃ w rest imm, Ready s ∧ s.cmds = w :: rest ∧ decode w = some (.seed imm)) ∨
    (t.seeded = false ∧ ∃ rest, AcceptsNothing s ∧ s.host = .setRst true :: rest) := by
  rcases step_cases s with ⟨w, rest, hbusy, hrst, hcmds, h⟩ | ⟨hnone, h⟩
  · obtain ⟨v, b, st, result, -, hb, hrun⟩ := runWord_ends w (accept rest s)
    obtain rfl := Host.Outcome.next.inj (ht.symm.trans (h.trans hrun))
    exact hb.imp_right fun ⟨hset, imm, himm⟩ => .inl ⟨hset, w, rest, imm, ⟨hbusy, hrst⟩, hcmds, himm⟩
  · obtain rfl := Host.Outcome.next.inj (ht.symm.trans h)
    rcases hostMove_reset_or_frame s with ⟨rest, hhost, hmove⟩ | ⟨-, hkeep, -⟩
    · exact .inr (.inr ⟨by rw [hmove]; rfl, rest, hnone, hhost⟩)
    · exact .inl hkeep

/-- Settles O43: of the three cases of `step_seeded_cases` only a SEED can raise SEEDED and only a reset can lower it. -/
theorem seededSetBySeedClearedByReset : Obligations.SeededSetBySeedClearedByReset := by
  intro s t ht
  rcases step_seeded_cases ht with hkeep | ⟨hset, hseed⟩ | ⟨hclear, hreset⟩
  · rw [hkeep]
    exact ⟨fun h0 h1 => by simp [h0] at h1, fun h1 h0 => by simp [h1] at h0⟩
  · exact ⟨fun _ _ => hseed, fun _ h0 => by simp [hset] at h0⟩
  · exact ⟨fun _ h1 => by simp [hclear] at h1, fun _ _ => hreset⟩

/-- Settles O44: `runWord_ends` for the step that accepts a word, `hostMove_reset_or_frame` for the one that does not. -/
theorem stepFrame : Obligations.StepFrame := by
  intro s t ht
  rcases step_cases s with ⟨w, rest, hbusy, hrst, hcmds, h⟩ | ⟨hnone, h⟩
  · obtain ⟨v, b, st, result, -, -, hrun⟩ := runWord_ends w (accept rest s)
    obtain rfl := Host.Outcome.next.inj (ht.symm.trans (h.trans hrun))
    refine ⟨fun _ => ⟨rfl, rfl, rfl, by simp [hcmds], rfl⟩, fun hnone => ?_⟩
    simp [AcceptsNothing, hbusy, hrst, hcmds] at hnone
  · obtain rfl := Host.Outcome.next.inj (ht.symm.trans h)
    refine ⟨fun hacc => absurd hnone hacc, fun _ hne => ?_⟩
    rcases hostMove_reset_or_frame s with ⟨rest, hhost, -⟩ | hframe
    · exact absurd hhost (hne rest)
    · exact hframe

/-! ## STATE before a SEED (R32, R151): a step commutes with `visible` -/

@[simp] theorem visible_seeded (s : State) : (visible s).seeded = s.seeded := rfl
@[simp] theorem visible_rsp (s : State) : (visible s).rsp = s.rsp := rfl
@[simp] theorem visible_host (s : State) : (visible s).host = s.host := rfl
@[simp] theorem visible_taken (s : State) : (visible s).taken = s.taken := rfl

theorem visible_of_seeded {s : State} (hs : s.seeded = true) : visible s = s := by
  rw [visible, if_pos hs]

/-- What a command does to an unseeded block, without a look at STATE: SEED runs, what needs a draw raises NotSeeded. -/
def unseededRun : Instr → State → State
  | .seed imm, s => respond 0#32 (setSeeded (writeState imm s))
  | .draw, s => raise .notSeeded s
  | .rnd imm, s => if imm < 1 then respond 0#32 s else raise .notSeeded s
  | .select imm _, s => if imm < 1 then raise .invalidLevel s else raise .notSeeded s

theorem exec_of_unseeded (i : Instr) {s : State} (hs : s.seeded = false) : exec i s = .next (unseededRun i s) := by
  have hne : s.seeded ≠ true := by simp [hs]
  cases i with
  | seed imm => exact exec_seed imm s
  | draw => exact ((exec_draw_cases s).resolve_left fun h => hne h.1).2
  | rnd imm =>
    rcases exec_rnd_cases imm s with ⟨himm, h⟩ | ⟨himm, -, h⟩ | ⟨-, h, -⟩
    · rw [h, unseededRun, if_pos himm]
    · rw [h, unseededRun, if_neg (by omega)]
    · exact absurd h hne
  | select imm cat =>
    rcases exec_select_cases imm cat s with ⟨himm, h⟩ | ⟨himm, -, h⟩ | ⟨-, h, -⟩ | ⟨-, h, -⟩
    · rw [h, unseededRun, if_pos himm]
    · rw [h, unseededRun, if_neg (by omega)]
    · exact absurd h hne
    · exact absurd h hne

theorem unseededRun_visible (i : Instr) (s : State) :
    unseededRun i (visible s) = visible (unseededRun i s) := by
  cases i with
  | seed | draw => rfl
  | rnd | select =>
    simp only [unseededRun]
    split <;> rfl

theorem exec_visible {i : Instr} {s t : State} (ht : exec i s = .next t) : exec i (visible s) = .next (visible t) := by
  cases hs : s.seeded with
  | true =>
    have hseeded : t.seeded = true := by
      obtain ⟨v, st, result, -, h⟩ := exec_ends i s
      obtain rfl := Host.Outcome.next.inj (ht.symm.trans h)
      rcases seededAfter_cases i s.seeded with hb | ⟨hb, -⟩
      · exact hb.trans hs
      · exact hb
    rw [visible_of_seeded hs, visible_of_seeded hseeded, ht]
  | false =>
    obtain rfl := Host.Outcome.next.inj (ht.symm.trans (exec_of_unseeded i hs))
    rw [exec_of_unseeded i ((visible_seeded s).trans hs), unseededRun_visible]

theorem runWord_visible {w : CmdWord} {s t : State} (ht : runWord w s = .next t) :
    runWord w (visible s) = .next (visible t) := by
  unfold runWord at ht ⊢
  cases hw : decode w with
  | some i =>
    rw [hw] at ht
    exact exec_visible ht
  | none =>
    rw [hw] at ht
    obtain rfl := Host.Outcome.next.inj ht
    rfl

theorem transfer_visible (s : State) : transfer (visible s) = visible (transfer s) := by
  unfold transfer
  cases hr : s.rsp <;> simp [visible, hr]

theorem hostMove_visible (s : State) : hostMove (visible s) = visible (hostMove s) := by
  unfold hostMove
  rw [visible_host]
  cases s.host with
  | nil => rfl
  | cons e rest =>
    cases e with
    | present => rfl
    | setRst level => cases level <;> rfl
    | takeRsp => exact transfer_visible { s with host := rest }

theorem step_visible {s t : State} (ht : step s = .next t) : step (visible s) = .next (visible t) := by
  rcases step_cases s with ⟨w, rest, hbusy, hrst, hcmds, h⟩ | ⟨hnone, h⟩
  · rw [step_of_ready (s := visible s) ⟨hbusy, hrst⟩ hcmds]
    exact runWord_visible (s := accept rest s) (h.symm.trans ht)
  · obtain rfl := Host.Outcome.next.inj (ht.symm.trans h)
    rw [step_of_acceptsNothing (s := visible s) hnone, hostMove_visible]

/-- Any number of steps is answered, and commutes with `visible`. -/
theorem run_visible (n : Nat) (s : State) :
    ∃ t : State, Sys2Proof.core.run n s = .next t ∧ Sys2Proof.core.run n (visible s) = .next (visible t) := by
  induction n generalizing s with
  | zero => exact ⟨s, rfl, rfl⟩
  | succ n ih =>
    obtain ⟨u, hu⟩ := everyStepAnswers s
    rw [run_succ hu, run_succ (step_visible hu)]
    exact ih u

/-- Settles O47: both runs, seen through `visible`, are the one run from the state they share. -/
theorem unseededStateIsInvisible : Obligations.UnseededStateIsInvisible := by
  intro n s s' hvis
  obtain ⟨t, ht, hrun⟩ := run_visible n s
  obtain ⟨t', ht', hrun'⟩ := run_visible n s'
  rw [← hvis] at hrun'
  have heq : visible t = visible t' := Host.Outcome.next.inj (hrun.symm.trans hrun')
  refine ⟨t, t', ht, ht', heq, ?_, ?_⟩
  · rw [← visible_rsp t, heq, visible_rsp]
  · rw [← visible_taken t, heq, visible_taken]

/-! ## The tables and the reset state -/

/-- Settles O14: the characters of the two tables, evaluated. -/
theorem tablesAreTheSpecs : Obligations.TablesAreTheSpecs :=
  ⟨by decide, by decide, rfl⟩

/-- Settles O39: each field is read off State.reset. -/
theorem resetState : Obligations.ResetState :=
  ⟨rfl, rfl, rfl, rfl, rfl, rfl, rfl, rfl, rfl, rfl⟩

end Sys2Proof.Machine
end

section
/-! PROOF. The address map of the table ROM (20_memory.md R40) for every legal choice of the parameters: the canonical form of its
list of cells, and what a read gives at every address and at every slot of a table. -/

namespace Sys2Proof.Machine

/-! ## The canonical form -/

theorem cellsRise_cons_iff (bound : Option Nat) (c : Host.Cell) (cs : List Host.Cell) :
    cellsRise bound (c :: cs) = true ↔ (∀ a ∈ bound, a < c.1) ∧ cellsRise (some c.1) cs = true := by
  cases bound <;> simp [cellsRise]

/-- A table laid out from `base` on rises above every bound below `base`, and so does what follows it, if that rises above every
bound below the table's end. -/
theorem cellsRise_cellsFrom_append {bs : List Byte} {base : Nat} {bound : Option Nat} {m : List Host.Cell}
    (hbound : ∀ a ∈ bound, a < base)
    (hm : ∀ bound' : Option Nat, (∀ a ∈ bound', a < base + bs.length) → cellsRise bound' m = true) :
    cellsRise bound (cellsFrom base bs ++ m) = true := by
  induction bs generalizing base bound with
  | nil => exact hm bound hbound
  | cons b bs ih =>
    rw [cellsFrom, List.cons_append, cellsRise_cons_iff]
    refine ⟨hbound, ih (by simp) fun bound' h => hm bound' fun a ha => ?_⟩
    have := h a ha
    rw [List.length_cons]
    omega

theorem cellsRise_cellsFrom (bs : List Byte) {base : Nat} {bound : Option Nat} (hbound : ∀ a ∈ bound, a < base) :
    cellsRise bound (cellsFrom base bs) = true := by
  rw [← List.append_nil (cellsFrom base bs)]
  exact cellsRise_cellsFrom_append hbound fun bound' _ => by cases bound' <;> rfl

/-- The ROM is in canonical form as soon as the resident table ends before the wandering one begins. -/
theorem rom_wf_of_length_le {p : Params} (hr : p.resTable.length ≤ 32) : Memory.wf (rom p) = true :=
  cellsRise_cellsFrom_append (by simp) fun _ h => cellsRise_cellsFrom _ fun a ha => by
    have := h a ha
    omega

/-! ## The reads -/

/-- The address map with its bounds (20_memory.md R40): the two tables, and no byte beside them. -/
theorem memRead_of_wf {p : Params} (hp : p.wf) (addr : Nat) :
    memRead p addr =
      if addr < 26 then p.resTable[addr]? else if 32 ≤ addr ∧ addr < 58 then p.wanTable[addr - 32]? else none := by
  obtain ⟨hr, hw, -⟩ := hp
  rw [memRead_eq]
  by_cases hres : addr < 26
  · rw [if_pos hres, if_neg (by omega), Option.or_none]
  · rw [if_neg hres, List.getElem?_eq_none (by omega), Option.none_or]
    by_cases hwan : 32 ≤ addr ∧ addr < 58
    · rw [if_pos hwan, if_pos hwan.1]
    · rw [if_neg hwan, ite_eq_right_iff]
      exact fun hlow => List.getElem?_eq_none (by omega)

theorem tableRead_resident {p : Params} (hp : p.wf) {idx : Int} (h1 : idx ≤ 25) :
    tableRead p .resident idx = p.resTable[idx.toNat]? := by
  rw [tableRead, tableAddr_resident, memRead_of_wf hp, if_pos (by omega)]

theorem tableRead_wandering {p : Params} (hp : p.wf) {idx : Int} (h1 : idx ≤ 25) :
    tableRead p .wandering idx = p.wanTable[idx.toNat]? := by
  rw [tableRead, tableAddr_wandering, memRead_of_wf hp, if_neg (by omega), if_pos (by omega), Nat.add_sub_cancel_left]

/-- Settles O16: the canonical form, the address map, and the reads of the two tables' slots. -/
theorem romMapIsTheSpecs : Obligations.RomMapIsTheSpecs := by
  intro p hp
  have hlength : p.resTable.length = 26 := hp.1
  exact ⟨rom_wf_of_length_le (by omega), memRead_of_wf hp,
    fun idx _ h1 => ⟨tableRead_resident hp h1, tableRead_wandering hp h1⟩⟩

end Sys2Proof.Machine
end

section
/-! PROOF. The opcode map (30_encoding.md R63 to R67, R72): a row's mask and match read field by field, the decoder as the choice
of the one row a word selects, and the answer to a word that selects none. -/

namespace Sys2Proof.Machine

/-! ## A command word is its four fields (R63) -/

theorem append_fields (w : CmdWord) : opcField w ++ zeroField w ++ wField w ++ immField w = w := by
  unfold opcField zeroField wField immField
  rw [BitVec.extractLsb'_append_extractLsb'_eq_extractLsb' (by decide),
    BitVec.extractLsb'_append_extractLsb'_eq_extractLsb' (by decide),
    BitVec.extractLsb'_append_extractLsb'_eq_extractLsb' (by decide), BitVec.extractLsb'_eq_self]

theorem eq_iff_fields {w w' : CmdWord} : w = w' ↔
    opcField w = opcField w' ∧ zeroField w = zeroField w' ∧ wField w = wField w' ∧ immField w = immField w' := by
  refine ⟨by rintro rfl; exact ⟨rfl, rfl, rfl, rfl⟩, fun ⟨hopc, hzero, hw, himm⟩ => ?_⟩
  rw [← append_fields w, hopc, hzero, hw, himm, append_fields]

/-! ## The rows, field by field (R66) -/

theorem selects_iff {r : Row} {w : CmdWord} : selects r w = true ↔ w &&& r.mask = r.pattern := beq_iff_eq

/-- A row whose match is an operation code alone and whose mask covers `OPC` and `ZERO`: a word selects it where these two fields
are the match's and what the mask covers of `W` and `IMM` is 0. -/
theorem selects_iff_fields {r : Row} {opc : BitVec 8} {wMask : BitVec 1} {immMask : Word}
    (hmatch : r.pattern = formatC opc 0#1 0#32)
    (hopc : opcField r.mask = BitVec.allOnes 8) (hzero : zeroField r.mask = BitVec.allOnes 23)
    (hw : wField r.mask = wMask) (himm : immField r.mask = immMask) (w : CmdWord) :
    selects r w = true ↔
      opcField w = opc ∧ zeroField w = 0#23 ∧ wField w &&& wMask = 0#1 ∧ immField w &&& immMask = 0#32 := by
  have hand : opcField (w &&& r.mask) = opcField w ∧ zeroField (w &&& r.mask) = zeroField w ∧
      wField (w &&& r.mask) = wField w &&& wMask ∧ immField (w &&& r.mask) = immField w &&& immMask := by
    rw [← hw, ← himm]
    refine ⟨BitVec.extractLsb'_and.trans ?_, BitVec.extractLsb'_and.trans ?_, BitVec.extractLsb'_and, BitVec.extractLsb'_and⟩
    · exact (congrArg _ hopc).trans BitVec.and_allOnes
    · exact (congrArg _ hzero).trans BitVec.and_allOnes
  obtain ⟨hopc', hzero', hw', himm'⟩ := hand
  rw [selects_iff, eq_iff_fields, hmatch, hopc', hzero', hw', himm', opcField_formatC, zeroField_formatC, wField_formatC,
    immField_formatC]

theorem selects_seedRow (w : CmdWord) :
    selects seedRow w = true ↔ opcField w = 1#8 ∧ zeroField w = 0#23 ∧ wField w = 0#1 := by
  rw [selects_iff_fields (r := seedRow) (opc := 1#8) (wMask := BitVec.allOnes 1) (immMask := 0#32) rfl rfl rfl rfl rfl w,
    BitVec.and_allOnes, BitVec.and_zero, eq_self, and_true]

theorem selects_drawRow (w : CmdWord) :
    selects drawRow w = true ↔ opcField w = 2#8 ∧ zeroField w = 0#23 ∧ wField w = 0#1 ∧ immField w = 0#32 := by
  rw [selects_iff_fields (r := drawRow) (opc := 2#8) (wMask := BitVec.allOnes 1) (immMask := BitVec.allOnes 32)
      rfl rfl rfl rfl rfl w,
    BitVec.and_allOnes, BitVec.and_allOnes]

theorem selects_rndRow (w : CmdWord) :
    selects rndRow w = true ↔ opcField w = 3#8 ∧ zeroField w = 0#23 ∧ wField w = 0#1 := by
  rw [selects_iff_fields (r := rndRow) (opc := 3#8) (wMask := BitVec.allOnes 1) (immMask := 0#32) rfl rfl rfl rfl rfl w,
    BitVec.and_allOnes, BitVec.and_zero, eq_self, and_true]

theorem selects_selectRow (w : CmdWord) :
    selects selectRow w = true ↔ opcField w = 4#8 ∧ zeroField w = 0#23 := by
  rw [selects_iff_fields (r := selectRow) (opc := 4#8) (wMask := 0#1) (immMask := 0#32) rfl rfl rfl rfl rfl w,
    BitVec.and_zero, BitVec.and_zero, eq_self, eq_self, and_true, and_true]

/-! ## The decoder chooses the row (R65, R72) -/

/-- The command of `i`'s row, its operands read from a word: `imm = sext_32(cmd[31:0])`, `cat = cmd[32]` (R65). -/
def withOperandsOf (w : CmdWord) : Instr → Instr
  | .seed _ => .seed (sext32 (immField w))
  | .draw => .draw
  | .rnd _ => .rnd (sext32 (immField w))
  | .select _ _ => .select (sext32 (immField w)) (catOfBit (wField w))

/-- Disjoint rows are never selected together (R66). -/
theorem not_selects_of_rowsDisjoint {r q : Row} {w : CmdWord} (hdisj : rowsDisjoint r q) (hq : selects q w = true) :
    ¬ selects r w = true := by
  intro hr
  apply hdisj
  rw [← selects_iff.mp hr, ← selects_iff.mp hq]
  ext k
  simp only [BitVec.getElem_and]
  cases w[k] <;> cases r.mask[k] <;> cases q.mask[k] <;> rfl

/-- A word spells no command where it selects no row (R67). -/
theorem decode_eq_none_iff {w : CmdWord} : decode w = none ↔ ∀ r ∈ opcodeMap, ¬ selects r w = true := by
  unfold decode
  split_ifs with hseed hdraw hrnd hselect <;> simp [opcodeMap, *]

/-- A word spells a command where it selects the command's row and carries its operands (R65, R66). -/
theorem decode_eq_some_iff {w : CmdWord} {i : Instr} :
    decode w = some i ↔ selects (rowOf i) w = true ∧ i = withOperandsOf w i := by
  unfold decode
  constructor
  · intro h
    split_ifs at h with hseed hdraw hrnd hselect <;> cases h
    · exact ⟨hseed, rfl⟩
    · exact ⟨hdraw, rfl⟩
    · exact ⟨hrnd, rfl⟩
    · exact ⟨hselect, rfl⟩
  · rintro ⟨hrow, hi⟩
    rw [hi]
    cases i with
    | seed imm => exact if_pos hrow
    | draw =>
      rw [if_neg (not_selects_of_rowsDisjoint (by decide) hrow)]
      exact if_pos hrow
    | rnd imm =>
      replace hrow : selects rndRow w = true := hrow
      rw [if_neg (not_selects_of_rowsDisjoint (by decide) hrow), if_neg (not_selects_of_rowsDisjoint (by decide) hrow)]
      exact if_pos hrow
    | select imm cat =>
      replace hrow : selects selectRow w = true := hrow
      rw [if_neg (not_selects_of_rowsDisjoint (by decide) hrow), if_neg (not_selects_of_rowsDisjoint (by decide) hrow),
        if_neg (not_selects_of_rowsDisjoint (by decide) hrow)]
      exact if_pos hrow

theorem catOfBit_wField (w : CmdWord) : catOfBit (wField w) = if w.getLsbD 32 then .wandering else .resident := by
  have hbit : (wField w).getLsbD 0 = w.getLsbD 32 := by simp [wField]
  rw [← hbit]
  rcases BitVec.eq_zero_or_eq_one (wField w) with h | h <;> rw [h] <;> rfl

/-- Settles O10: `decode_eq_some_iff` for each row, its mask and match written out. -/
theorem rowsSelectTheirCommands : Obligations.RowsSelectTheirCommands := by
  intro w
  refine ⟨fun imm => ?_, ?_, fun imm => ?_, fun imm cat => ?_⟩
  · rw [decode_eq_some_iff, withOperandsOf, Instr.seed.injEq, selects_iff]
    rfl
  · rw [decode_eq_some_iff, withOperandsOf, eq_self, and_true, selects_iff]
    rfl
  · rw [decode_eq_some_iff, withOperandsOf, Instr.rnd.injEq, selects_iff]
    rfl
  · rw [decode_eq_some_iff, withOperandsOf, Instr.select.injEq, catOfBit_wField, selects_iff]
    rfl

/-! ## Illegal words (R67, R121) -/

/-- The words of R67's cases (a) to (d), by operation code. -/
theorem decode_eq_none_iff_fields (w : CmdWord) : decode w = none ↔
    (opcField w = 0x00#8 ∨ 5 ≤ (opcField w).toNat) ∨ zeroField w ≠ 0#23 ∨
    ((opcField w = 0x01#8 ∨ opcField w = 0x02#8 ∨ opcField w = 0x03#8) ∧ wField w = 1#1) ∨
    (opcField w = 0x02#8 ∧ immField w ≠ 0#32) := by
  have hw : wField w = 1#1 ↔ ¬ wField w = 0#1 := by
    rcases BitVec.eq_zero_or_eq_one (wField w) with h | h <;> simp [h]
  have hopc : opcField w = 0#8 ∨ opcField w = 1#8 ∨ opcField w = 2#8 ∨ opcField w = 3#8 ∨ opcField w = 4#8 ∨
      5 ≤ (opcField w).toNat := by
    simp only [← BitVec.toNat_inj, BitVec.toNat_ofNat]
    omega
  rw [decode_eq_none_iff, hw]
  simp only [opcodeMap, List.forall_mem_cons, List.not_mem_nil, selects_seedRow, selects_drawRow, selects_rndRow,
    selects_selectRow]
  rcases hopc with h | h | h | h | h | h
  · simp [h]
  · simp [h, imp_iff_not_or]
  · simp [h, imp_iff_not_or]
  · simp [h, imp_iff_not_or]
  · simp [h]
  · have hne : ∀ k : BitVec 8, k.toNat < 5 → opcField w ≠ k := by
      rintro k hk rfl
      omega
    simp [h, hne]

/-- Settles O9: `decode_eq_none_iff_fields`, and the step of a ready block, which answers a word without a command with IllegalCmd
and nothing else. -/
theorem illegalWordsAreTheFourCasesAndAreAnswered : Obligations.IllegalWordsAreTheFourCasesAndAreAnswered := by
  intro w
  refine ⟨decode_eq_none_iff_fields w, fun s rest hready hcmds hdec => ?_⟩
  rw [step_of_ready hready hcmds, runWord, hdec]
  rfl

/-! ## Responses (R64) -/

/-- Settles O13: the fields of `formatR`; the codes are read off `Status.code`. -/
theorem responseWordFields : Obligations.ResponseWordFields :=
  ⟨fun st result => ⟨rspStatus_formatR st result, rspZero_formatR st result, rspResult_formatR st result⟩,
    rfl, rfl, rfl, rfl, rfl⟩

end Sys2Proof.Machine
end

section
/-! PROOF. The two channels (30_encoding.md R61, R62): a presented word waits, a response is transferred, and a command that was
accepted is answered. -/

namespace Sys2Proof.Machine

/-- The host's next move, where its script is not at an end. -/
theorem hostMove_of_cons {s : State} {e : HostEvent} {rest : List HostEvent} (h : s.host = e :: rest) :
    hostMove s = hostEvent e { s with host := rest } := by
  rw [hostMove, h]

/-- Settles O36: the host's move is nothing where its script is at an end, and a presented word goes behind the others. -/
theorem presentedWordsWait : Obligations.PresentedWordsWait := by
  intro s hnone
  rw [step_of_acceptsNothing hnone]
  exact ⟨fun hhost => by rw [hostMove, hhost], fun w rest hhost => by rw [hostMove_of_cons hhost]; rfl⟩

/-- Where nothing is accepted and the host is ready, the response that stands on the channel is transferred. -/
theorem step_takeRsp_of_some {s : State} {rest : List HostEvent} {r : RspWord} (hnone : AcceptsNothing s)
    (hhost : s.host = .takeRsp :: rest) (hr : s.rsp = some r) :
    step s = .next { s with host := rest, busy := false, rsp := none, taken := s.taken ++ [r] } := by
  rw [step_of_acceptsNothing hnone, hostMove_of_cons hhost, hostEvent, transfer, hr]

theorem step_takeRsp_of_none {s : State} {rest : List HostEvent} (hnone : AcceptsNothing s)
    (hhost : s.host = .takeRsp :: rest) (hr : s.rsp = none) : step s = .next { s with host := rest } := by
  rw [step_of_acceptsNothing hnone, hostMove_of_cons hhost, hostEvent, transfer, hr]

/-- Settles O37: the transfer with a response on the channel and without one. -/
theorem responsesAreTransferredInOrder : Obligations.ResponsesAreTransferredInOrder :=
  fun _ _ hnone hhost => ⟨fun _ => step_takeRsp_of_some hnone hhost, step_takeRsp_of_none hnone hhost⟩

/-- Settles O48: the first step leaves the block busy with a well-formed response (`runWord_ends`), the second hands it over. -/
theorem acceptedCommandIsAnswered : Obligations.AcceptedCommandIsAnswered := by
  intro s w ws rest hready hcmds hhost
  obtain ⟨v, b, st, result, hst, -, hrun⟩ := runWord_ends w (accept ws s)
  have hanswer := (step_of_ready hready hcmds).trans hrun
  have htake := step_takeRsp_of_some (s := { accept ws s with state := v, seeded := b, rsp := some (formatR st result) })
    (.inl rfl) hhost rfl
  exact ⟨_, _, (run_succ hanswer 1).trans (run_succ htake 0), ⟨rfl, hready.2⟩, rfl, rfl, rfl, rfl, rspWf_formatR hst⟩

end Sys2Proof.Machine
end

section
/-! PROOF. The textual form of a command (30_encoding.md R70, R71): an integer spelled and read back, a line cut into its tokens,
and the line of a command assembled to it. -/

namespace Sys2Proof.Machine

/-! ## Digits -/

/-- A digit character's value, in every base above it. -/
theorem digitValue_digitChar {b : Nat} (hb : b ≤ 16) : ∀ d < b, digitValue b d.digitChar = some d := by
  have hall : ∀ b : Fin 17, ∀ d : Fin b, digitValue b (d : Nat).digitChar = some (d : Nat) := by decide
  exact fun d hd => hall ⟨b, by omega⟩ ⟨d, hd⟩

theorem digitValue_toUpper_digitChar : ∀ d < 16, digitValue 16 d.digitChar.toUpper = some d := by decide

theorem digitsValue_append (base acc : Nat) (l m : List Char) :
    digitsValue base acc (l ++ m) = (digitsValue base acc l).bind fun n => digitsValue base n m := by
  induction l generalizing acc with
  | nil => rfl
  | cons c cs ih =>
    rw [List.cons_append, digitsValue, digitsValue]
    cases digitValue base c with
    | none => rfl
    | some v => exact ih _

/-- The digits of `n`, written with characters that read as they should, spell `n`. -/
theorem natOfDigits_map_toDigits {b : Nat} (hb : 1 < b) {write : Char → Char}
    (hwrite : ∀ d < b, digitValue b (write d.digitChar) = some d) (n : Nat) :
    natOfDigits b ((Nat.toDigits b n).map write) = some n := by
  have hvalue : digitsValue b 0 ((Nat.toDigits b n).map write) = some n := by
    induction n using Nat.strongRecOn with
    | ind n ih =>
      rw [Nat.toDigits_eq_if hb]
      split
      · next hlt => simp [digitsValue, hwrite n hlt]
      · next hge =>
        rw [List.map_append, digitsValue_append, ih _ (Nat.div_lt_self (by omega) hb)]
        simp [digitsValue, hwrite _ (Nat.mod_lt n (by omega)), Nat.div_add_mod]
  cases hl : (Nat.toDigits b n).map write with
  | nil => exact absurd (List.map_eq_nil_iff.mp hl) Nat.toDigits_ne_nil
  | cons c cs => rw [natOfDigits, ← hl, hvalue]

/-! ## Integers (R70) -/

/-- Digits alone are a decimal integer: they begin with neither a minus sign nor `0x`. -/
theorem intOfChars_of_natOfDigits {ds : List Char} {n : Nat} (h : natOfDigits 10 ds = some n) :
    intOfChars ds = some (n : Int) := by
  unfold intOfChars
  split
  · exact absurd h (by simp [natOfDigits, digitsValue, digitValue])
  · exact absurd h (by simp [natOfDigits, digitsValue, digitValue])
  · rw [h]; rfl

theorem natOfDigits_toDigits_ten (n : Nat) : natOfDigits 10 (Nat.toDigits 10 n) = some n := by
  simpa using natOfDigits_map_toDigits (b := 10) (write := id) (by decide) (digitValue_digitChar (by decide)) n

theorem intOfChars_charsOfInt (v : Int) : intOfChars (charsOfInt v) = some v := by
  unfold charsOfInt
  split
  · next hneg =>
    rw [intOfChars, natOfDigits_toDigits_ten, Option.map_some]
    exact congrArg some (show -(v.natAbs : Int) = v by omega)
  · next hpos =>
    rw [intOfChars_of_natOfDigits (natOfDigits_toDigits_ten _)]
    exact congrArg some (by omega)

theorem intOfChars_hexOfInt (capital : Bool) (v : Int) : intOfChars (hexOfInt capital v) = some v := by
  unfold hexOfInt
  split
  · exact intOfChars_charsOfInt v
  · next hpos =>
    have hwrite : ∀ d < 16, digitValue 16 (if capital then d.digitChar.toUpper else d.digitChar) = some d := by
      cases capital
      · exact digitValue_digitChar (by decide)
      · exact digitValue_toUpper_digitChar
    rw [intOfChars, natOfDigits_map_toDigits (by decide) hwrite, Option.map_some]
    exact congrArg some (Int.toNat_of_nonneg (by omega))

/-! ## Tokens -/

/-- A character that is part of a token wherever it stands: no space, no comma, no start of a comment. -/
abbrev InToken (c : Char) : Prop := c ≠ ' ' ∧ c ≠ '\t' ∧ c ≠ ',' ∧ c ≠ '#'

theorem inToken_of_digitValue {b : Nat} {c : Char} {v : Nat} (hb : b ≤ 16) (h : digitValue b c = some v) : InToken c := by
  refine ⟨?_, ?_, ?_, ?_⟩ <;> rintro rfl <;> simp [digitValue] at h <;> omega

theorem inToken_of_digitsValue {b acc n : Nat} {ds : List Char} (hb : b ≤ 16) (h : digitsValue b acc ds = some n) :
    ∀ c ∈ ds, InToken c := by
  induction ds generalizing acc with
  | nil => simp
  | cons d ds ih =>
    rw [digitsValue] at h
    split at h
    · next v hv => exact List.forall_mem_cons.mpr ⟨inToken_of_digitValue hb hv, ih h⟩
    · cases h

/-- A list of characters that a line's cutting leaves in one piece. -/
abbrev IsToken (t : List Char) : Prop := t ≠ [] ∧ ∀ c ∈ t, InToken c

theorem isToken_of_natOfDigits {b n : Nat} {ds : List Char} (hb : b ≤ 16) (h : natOfDigits b ds = some n) : IsToken ds := by
  cases ds with
  | nil => cases h
  | cons d ds => exact ⟨List.cons_ne_nil d ds, inToken_of_digitsValue hb h⟩

/-- Whatever is read as an integer is a token. -/
theorem isToken_of_intOfChars {t : List Char} {v : Int} (h : intOfChars t = some v) : IsToken t := by
  unfold intOfChars at h
  split at h <;> obtain ⟨n, hn, -⟩ := Option.map_eq_some_iff.mp h
  · obtain ⟨-, hds⟩ := isToken_of_natOfDigits (by decide) hn
    exact ⟨List.cons_ne_nil _ _, List.forall_mem_cons.mpr ⟨by decide, List.forall_mem_cons.mpr ⟨by decide, hds⟩⟩⟩
  · obtain ⟨-, hds⟩ := isToken_of_natOfDigits (by decide) hn
    exact ⟨List.cons_ne_nil _ _, List.forall_mem_cons.mpr ⟨by decide, hds⟩⟩
  · exact isToken_of_natOfDigits (by decide) hn

theorem tokensFrom_append {t : List Char} (ht : ∀ c ∈ t, InToken c) (cur cs : List Char) :
    tokensFrom cur (t ++ cs) = tokensFrom (cur ++ t) cs := by
  induction t generalizing cur with
  | nil => rw [List.nil_append, List.append_nil]
  | cons c t ih =>
    obtain ⟨⟨hspace, htab, hcomma, -⟩, ht⟩ := List.forall_mem_cons.mp ht
    rw [List.cons_append, tokensFrom, if_neg (by simp [hspace, htab]), if_neg hcomma, ih ht, List.append_assoc]
    rfl

theorem tokensFrom_token {t : List Char} (ht : IsToken t) : tokensFrom [] t = [t] := by
  have h := tokensFrom_append ht.2 [] []
  rw [List.append_nil] at h
  simp [h, tokensFrom, ht.1]

theorem tokensFrom_token_space {t : List Char} (ht : IsToken t) (cs : List Char) :
    tokensFrom [] (t ++ ' ' :: cs) = t :: tokensFrom [] cs := by
  simp [tokensFrom_append ht.2, tokensFrom, ht.1]

theorem tokensFrom_token_comma {t : List Char} (ht : IsToken t) (cs : List Char) :
    tokensFrom [] (t ++ ',' :: cs) = t :: [','] :: tokensFrom [] cs := by
  simp [tokensFrom_append ht.2, tokensFrom, ht.1]

/-- A space at the end of a line makes no token. -/
theorem tokensFrom_append_space (cur cs : List Char) : tokensFrom cur (cs ++ [' ']) = tokensFrom cur cs := by
  induction cs generalizing cur with
  | nil => simp [tokensFrom]
  | cons c cs ih => simp only [List.cons_append, tokensFrom, ih]

/-! ## Comments -/

theorem stripComment_append {text : List Char} (h : '#' ∉ text) (cs : List Char) :
    stripComment (text ++ cs) = text ++ stripComment cs := by
  induction text with
  | nil => rfl
  | cons c text ih =>
    obtain ⟨hc, htext⟩ := List.ne_and_not_mem_of_not_mem_cons h
    rw [List.cons_append, stripComment, if_neg hc.symm, ih htext, List.cons_append]

/-! ## Commands (R70, R71) -/

theorem isToken_seedText : IsToken seedText := by simp [IsToken, InToken, seedText]
theorem isToken_rndText : IsToken rndText := by simp [IsToken, InToken, rndText]
theorem isToken_selectText : IsToken selectText := by simp [IsToken, InToken, selectText]

theorem commandOfTokens_seed {n : List Char} {v : Int} (hn : intOfChars n = some v) :
    commandOfTokens [seedText, n] = some (.seed v) := by
  simp [commandOfTokens, hn]

theorem commandOfTokens_rnd {n : List Char} {v : Int} (hn : intOfChars n = some v) :
    commandOfTokens [rndText, n] = some (.rnd v) := by
  simp [commandOfTokens, hn, rndText, seedText]

theorem commandOfTokens_select {n c : List Char} {v : Int} {cat : Category} (hn : intOfChars n = some v)
    (hc : categoryOfChars c = some cat) : commandOfTokens [selectText, n, [','], c] = some (.select v cat) := by
  simp [commandOfTokens, hn, hc]

theorem assembleLine_of_tokens {line : List Char} {i : Instr} (hwf : WellFormed i)
    (h : commandOfTokens (tokensFrom [] (stripComment line)) = some i) : assembleLine line = .command i := by
  unfold assembleLine
  split
  · next hnil =>
    rw [hnil] at h
    cases h
  · rw [h]
    exact if_pos hwf

theorem wellFormed_of_assembleLine {line : List Char} {i : Instr} (h : assembleLine line = .command i) : WellFormed i := by
  unfold assembleLine at h
  split at h
  · cases h
  · split at h
    · split at h
      · next hwf => exact AsmLine.command.inj h ▸ hwf
      · cases h
    · cases h

section
variable {spell : Int → List Char} (hspell : ∀ v, intOfChars (spell v) = some v)
include hspell

/-- The tokens of a command's text are the command's mnemonic and operands, however its integer is spelled. -/
theorem commandOfTokens_textWith (i : Instr) : commandOfTokens (tokensFrom [] (textWith spell i)) = some i := by
  have hint : ∀ v, IsToken (spell v) := fun v => isToken_of_intOfChars (hspell v)
  cases i with
  | seed imm =>
    rw [textWith, tokensFrom_token_space isToken_seedText, tokensFrom_token (hint imm)]
    exact commandOfTokens_seed (hspell imm)
  | draw => rfl
  | rnd imm =>
    rw [textWith, tokensFrom_token_space isToken_rndText, tokensFrom_token (hint imm)]
    exact commandOfTokens_rnd (hspell imm)
  | select imm cat =>
    have htokens : ∀ c : List Char, tokensFrom [] (selectText ++ ' ' :: spell imm ++ ',' :: c) =
        selectText :: spell imm :: [','] :: tokensFrom [] c := fun c => by
      rw [List.append_assoc, List.cons_append, tokensFrom_token_space isToken_selectText, tokensFrom_token_comma (hint imm)]
    cases cat with
    | resident =>
      rw [textWith, htokens]
      exact commandOfTokens_select (hspell imm) rfl
    | wandering =>
      rw [textWith, htokens]
      exact commandOfTokens_select (hspell imm) rfl

theorem hash_not_mem_textWith (i : Instr) : '#' ∉ textWith spell i := by
  have hint : ∀ v, '#' ∉ spell v := fun v hmem => ((isToken_of_intOfChars (hspell v)).2 _ hmem).2.2.2 rfl
  cases i with
  | seed imm => simp [textWith, seedText, hint]
  | draw => simp [textWith, drawText]
  | rnd imm => simp [textWith, rndText, hint]
  | select imm cat => cases cat <;> simp [textWith, selectText, resText, wandText, hint]

/-- The text of a command assembles to it, with or without a comment behind it. -/
theorem assembleLine_textWith {i : Instr} (hwf : WellFormed i) (note : List Char) :
    assembleLine (textWith spell i) = .command i ∧ assembleLine (textWith spell i ++ '#' :: note) = .command i ∧
    assembleLine (textWith spell i ++ ' ' :: '#' :: note) = .command i := by
  have htokens := commandOfTokens_textWith hspell i
  have hstrip := stripComment_append (hash_not_mem_textWith hspell i)
  have hplain : stripComment (textWith spell i) = textWith spell i := by
    simpa [stripComment] using hstrip []
  refine ⟨assembleLine_of_tokens hwf ?_, assembleLine_of_tokens hwf ?_, assembleLine_of_tokens hwf ?_⟩
  · rwa [hplain]
  · rw [hstrip]
    simpa [stripComment] using htokens
  · rw [hstrip]
    simpa [stripComment, tokensFrom_append_space] using htokens

end

/-- Settles O12: decimal and hexadecimal are spellings that read back (`assembleLine_textWith`), a comment leaves an empty line,
and the assembler checks the operand of what it answers. -/
theorem assemblyTextRoundTrip : Obligations.AssemblyTextRoundTrip := by
  refine ⟨fun i text note hwf htext => ?_, fun _ => rfl, fun _ _ => wellFormed_of_assembleLine⟩
  rcases htext with rfl | rfl | rfl
  · exact assembleLine_textWith intOfChars_charsOfInt hwf note
  · exact assembleLine_textWith (intOfChars_hexOfInt false) hwf note
  · exact assembleLine_textWith (intOfChars_hexOfInt true) hwf note

end Sys2Proof.Machine
end

section
/-! PROOF. The generator commands (40_generator.md): the widths of the arithmetic (R80), the signs of a draw, and SEED, DRAW and RND
with their exact responses (R86 to R88). -/

namespace Sys2Proof.Machine

/-! ## Draws -/

theorem lcgStep_nonneg {s : Int} (h : 0 ≤ s) : 0 ≤ lcgStep s :=
  trem_nonneg modulus (Int.mul_nonneg (by decide) h)

theorem lcgStep_nonpos {s : Int} (h : s ≤ 0) : lcgStep s ≤ 0 :=
  trem_nonpos modulus (Int.mul_nonpos_of_nonneg_of_nonpos (by decide) h)

/-- The multiples of the modulus are drawn to 0. -/
theorem lcgStep_eq_zero_of_dvd {s : Int} (h : (2796203 : Int) ∣ s) : lcgStep s = 0 := by
  rw [lcgStep_eq_tmod]
  exact Int.tmod_eq_zero_of_dvd (h.mul_left 125)

/-- The sum of two successive draws. -/
theorem lcgStep_add_lcgStep_bounds (s : Int) :
    -5592404 ≤ lcgStep s + lcgStep (lcgStep s) ∧ lcgStep s + lcgStep (lcgStep s) ≤ 5592404 := by
  obtain ⟨hlow₁, hhigh₁⟩ := lcgStep_bounds s
  obtain ⟨hlow₂, hhigh₂⟩ := lcgStep_bounds (lcgStep s)
  constructor <;> omega

/-- A state and its draw have one sign, so their sum is -1 only for -1 and 0, and -1 is drawn to -125. -/
theorem add_lcgStep_ne_neg_one (s : Int) : s + lcgStep s ≠ -1 := by
  intro hsum
  rcases Int.le_total 0 s with hs | hs
  · have := lcgStep_nonneg hs
    omega
  · have := lcgStep_nonpos hs
    have hcases : s = 0 ∨ s = -1 := by omega
    rcases hcases with rfl | rfl <;> exact absurd hsum (by decide)

/-- The masked sum of two draws never takes the mask's own value, which only a sum of -1 would give. -/
theorem maskSum_draws_lt (s : Int) : maskSum (lcgStep s + lcgStep (lcgStep s)) < 2147483647 := by
  obtain ⟨hlow, hhigh⟩ := lcgStep_add_lcgStep_bounds s
  have hne := add_lcgStep_ne_neg_one (lcgStep s)
  unfold maskSum maskSpan
  omega

/-- Settles O4: the bounds of a register, a draw, two draws, a masked sum and the jitter. -/
theorem arithmeticStaysWithinItsWidths : Obligations.ArithmeticStaysWithinItsWidths := by
  refine ⟨fun b => ?_, fun v hv => ?_, lcgStep_add_lcgStep_bounds, maskSum_bounds, fun s level _ _ => ?_⟩
  · obtain ⟨hlow, hhigh⟩ := sext32_fits b
    constructor <;> omega
  · obtain ⟨hlow, hhigh⟩ := hv
    constructor <;> omega
  · obtain ⟨hlow, hhigh⟩ := selJitter_bounds s
    refine ⟨hlow, hhigh, ?_, ?_⟩ <;> omega

/-! ## The range-mapped draw -/

/-- The value of a draw with a range that fits the register is a pattern's unsigned reading as well. -/
theorem toNat_toBits32_lcgRnd {s r : Int} (h : 1 ≤ r) (hr : Fits32 r) :
    ((toBits32 (lcgRnd s r).1).toNat : Int) = maskSum (lcgStep s + lcgStep (lcgStep s)) % r := by
  obtain ⟨hlow, hhigh⟩ := lcgRnd_value_bounds (s := s) h
  obtain ⟨-, hfit⟩ := hr
  rw [toNat_toBits32, Int.emod_eq_of_lt hlow (by omega), lcgRnd_of_one_le h]

/-- For the largest range the reduction changes nothing. -/
theorem maskSum_draws_emod_largest (s : Int) : maskSum (lcgStep s + lcgStep (lcgStep s)) % 2147483647 =
    maskSum (lcgStep s + lcgStep (lcgStep s)) :=
  Int.emod_eq_of_lt (maskSum_bounds _).1 (maskSum_draws_lt s)

/-! ## The commands -/

/-- STATE, as `toInt` reads it, after a write of an integer that fits. -/
theorem toInt_writeState {v : Int} (h : Fits32 v) (s : State) : (writeState v s).state.toInt = v :=
  readState_writeState h s

/-- Whatever the generator leaves in STATE is reduced, so it fits. -/
theorem toInt_writeState_of_isReduced {v : Int} (h : IsReduced v) (s : State) : (writeState v s).state.toInt = v := by
  obtain ⟨hlow, hhigh⟩ := h
  exact toInt_writeState (by constructor <;> omega) s

/-- DRAW on a seeded block. -/
theorem exec_draw_of_seeded {s : State} (hs : s.seeded = true) : exec .draw s =
    .next (respond (toBits32 (lcgStep (readState s))) (writeState (lcgStep (readState s)) s)) := by
  rcases exec_draw_cases s with ⟨-, h⟩ | ⟨hs', -⟩
  · exact h
  · simp [hs] at hs'

/-- RND without a range, seeded or not. -/
theorem exec_rnd_of_lt_one {imm : Int} (himm : imm < 1) (s : State) : exec (.rnd imm) s = .next (respond 0#32 s) := by
  rcases exec_rnd_cases imm s with ⟨-, h⟩ | ⟨himm', -⟩ | ⟨himm', -⟩
  · exact h
  · omega
  · omega

/-- RND with a range on a seeded block. -/
theorem exec_rnd_of_seeded {imm : Int} {s : State} (himm : 1 ≤ imm) (hs : s.seeded = true) : exec (.rnd imm) s =
    .next (respond (toBits32 (lcgRnd (readState s) imm).1) (writeState (lcgRnd (readState s) imm).2 s)) := by
  rcases exec_rnd_cases imm s with ⟨hlt, -⟩ | ⟨-, hs', -⟩ | ⟨-, -, h⟩
  · omega
  · simp [hs] at hs'
  · exact h

/-- Settles O17: the run of SEED reads neither STATE nor SEEDED, and the operand reads back. -/
theorem seedCommand : Obligations.SeedCommand := by
  intro imm s hwf
  have hstate : (writeState imm s).state.toInt = imm := toInt_writeState (of_decide_eq_true hwf) s
  refine ⟨_, exec_seed imm s, hstate, rfl, rfl, rfl, fun _ _ => rfl, fun hdvd => ?_⟩
  exact lcgStep_eq_zero_of_dvd (hstate.symm ▸ hdvd)

/-- Settles O18: the new STATE is one draw, which fits the register. -/
theorem drawCommand : Obligations.DrawCommand := by
  refine fun s => ⟨exec_of_unseeded .draw, fun hs => ?_⟩
  have hstate := toInt_writeState_of_isReduced (lcgStep_bounds (readState s)) s
  refine ⟨_, exec_draw_of_seeded hs, hstate.trans (lcgStep_eq_tmod _), ?_, rfl, rfl⟩
  exact hstate.symm ▸ lcgStep_bounds _

/-- Settles O19: the cases of `exec_rnd_cases`; the value is `toNat_toBits32_lcgRnd`. -/
theorem rndCommand : Obligations.RndCommand := by
  intro imm s hwf
  refine ⟨fun himm => ?_, fun himm hs => ?_, fun himm hs => ?_⟩
  · exact exec_rnd_of_lt_one himm s
  · rw [exec_of_unseeded _ hs, unseededRun, if_neg (by omega)]
    rfl
  · have hvalue := toNat_toBits32_lcgRnd (s := readState s) himm (of_decide_eq_true hwf)
    refine ⟨_, lcgStep (readState s), lcgStep (lcgStep (readState s)), exec_rnd_of_seeded himm hs, lcgStep_eq_tmod _,
      lcgStep_eq_tmod _, ?_, ⟨_, rfl, hvalue, ?_⟩, rfl⟩
    · rw [lcgRnd_of_one_le himm]
      exact toInt_writeState_of_isReduced (lcgStep_bounds _) s
    · rintro rfl
      exact hvalue.trans (maskSum_draws_emod_largest _)

end Sys2Proof.Machine
end

section
/-! PROOF. STATE moves by whole draws (10_state.md R20): how many an operation of the selector makes, and with it how many each
command makes. -/

namespace Sys2Proof.Machine

/-! ## The draws of one iteration (41_selector.md R101 c) -/

theorem lcgRnd_state {r : Int} (s : Int) (h : 1 ≤ r) : (lcgRnd s r).2 = lcgStep^[2] s := by
  rw [lcgRnd_of_one_le h]
  rfl

theorem selJitter_state (s : Int) : (selJitter s).2 = lcgStep^[4] s := by
  rw [selJitter, lcgRnd_state _ (by decide), lcgRnd_state _ (by decide), ← Function.iterate_add_apply]

/-- The redraw of a clamp comes on top of the jitter's four draws. -/
theorem lcgRnd_selJitter_state {r : Int} (s : Int) (h : 1 ≤ r) : (lcgRnd (selJitter s).2 r).2 = lcgStep^[6] s := by
  rw [lcgRnd_state _ h, selJitter_state, ← Function.iterate_add_apply]

/-- Four draws, or six where a clamp redraws the depth. -/
theorem selIter_state (s level : Int) : (selIter s level).2 = lcgStep^[4] s ∨ (selIter s level).2 = lcgStep^[6] s := by
  rcases selIter_cases s level with ⟨-, -, h⟩ | ⟨-, h⟩ | ⟨-, h⟩ <;> rw [h]
  · exact .inl (selJitter_state s)
  · exact .inr (lcgRnd_selJitter_state s (by decide))
  · exact .inr (lcgRnd_selJitter_state s (by decide))

/-- `k` iterations make an even number of draws, four to six each. -/
theorem iterState_eq_iterate (level : Int) (k : Nat) (s : Int) :
    ∃ n, 4 * k ≤ n ∧ n ≤ 6 * k ∧ n % 2 = 0 ∧ iterState level k s = lcgStep^[n] s := by
  induction k generalizing s with
  | zero => exact ⟨0, by omega, by omega, rfl, rfl⟩
  | succ k ih =>
    obtain ⟨n, hlow, hhigh, heven, hn⟩ := ih (selIter s level).2
    rw [iterState_succ, hn]
    rcases selIter_state s level with h | h <;> rw [h, ← Function.iterate_add_apply]
    · exact ⟨n + 4, by omega, by omega, by omega, rfl⟩
    · exact ⟨n + 6, by omega, by omega, by omega, rfl⟩

/-! ## The iterations of the loop (R103) -/

/-- A loop that finds a species keeps the draws of the iterations up to that one. -/
theorem state_of_selLoop_eq_found {p : Params} (hp : p.wf) {level : Int} {cat : Category} {n : Nat} {s : Int} {ch : Byte}
    {v : Int} (h : selLoop p level cat n s = .found ch v) : ∃ k, k < n ∧ v = iterState level (k + 1) s := by
  induction n generalizing s with
  | zero => cases h
  | succ n ih =>
    obtain ⟨c, -, hturn⟩ := selLoop_succ hp level cat n s
    rw [hturn] at h
    split at h
    · obtain ⟨k, hk, hv⟩ := ih h
      exact ⟨k + 1, by omega, hv⟩
    · cases h
      exact ⟨0, by omega, rfl⟩

/-- A loop that runs out keeps the draws of all its iterations. -/
theorem state_of_selLoop_eq_exhausted {p : Params} (hp : p.wf) {level : Int} {cat : Category} {n : Nat} {s v : Int}
    (h : selLoop p level cat n s = .exhausted v) : v = iterState level n s := by
  induction n generalizing s with
  | zero =>
    cases h
    rfl
  | succ n ih =>
    obtain ⟨c, -, hturn⟩ := selLoop_succ hp level cat n s
    rw [hturn] at h
    split at h
    · exact ih h
    · cases h

/-! ## The commands -/

/-- A seeded SELECT leaves the state of the iterations it made, one to 64 of them, whether it found a species or not. -/
theorem exec_select_state {imm : Int} (cat : Category) {s : State} (himm : 1 ≤ imm) (hs : s.seeded = true) :
    ∃ t k, exec (.select imm cat) s = .next t ∧ k < 64 ∧ t.state.toInt = iterState imm (k + 1) (readState s) := by
  have hwrite : ∀ k, (writeState (iterState imm (k + 1) (readState s)) s).state.toInt = iterState imm (k + 1) (readState s) :=
    fun k => toInt_writeState_of_isReduced (iterState_bounds imm k (readState s)) s
  rcases exec_select_cases imm cat s with ⟨hlt, -⟩ | ⟨-, hs', -⟩ | ⟨-, -, ch, v, hloop, h⟩ | ⟨-, -, v, hloop, h⟩
  · omega
  · simp [hs] at hs'
  · obtain ⟨k, hk, rfl⟩ := state_of_selLoop_eq_found params_wf hloop
    exact ⟨_, k, h, hk, hwrite k⟩
  · obtain rfl := state_of_selLoop_eq_exhausted params_wf hloop
    exact ⟨_, 63, h, by decide, hwrite 63⟩

/-- Settles O29: one draw for DRAW, `lcgRnd_state` for RND, and for SELECT the draws of one to 64 iterations. -/
theorem commandsAdvanceByDraws : Obligations.CommandsAdvanceByDraws := by
  intro s hs
  refine ⟨⟨_, exec_draw_of_seeded hs, ?_⟩, fun imm himm => ⟨_, exec_rnd_of_seeded himm hs, ?_⟩, fun imm cat himm => ?_⟩
  · exact toInt_writeState_of_isReduced (lcgStep_bounds _) s
  · rw [lcgRnd_state _ himm]
    exact toInt_writeState_of_isReduced (lcgStep_bounds _) s
  · obtain ⟨t, k, ht, hk, hstate⟩ := exec_select_state cat himm hs
    obtain ⟨n, hlow, hhigh, heven, hn⟩ := iterState_eq_iterate imm (k + 1) (readState s)
    exact ⟨t, n, ht, by omega, by omega, heven, hstate.trans hn⟩

end Sys2Proof.Machine
end

section
/-! PROOF. The selector (41_selector.md): one iteration line for line (R100), the first species of a run of iterations, how the
retry loop ends (R103), and SELECT in its four cases (R104, R110). -/

namespace Sys2Proof.Machine

/-! ## One iteration (R100) -/

/-- Settles O20: the jitter, the low clamp and the high clamp are R100's lines with the constants under their names. -/
theorem selIterFollowsTheAlgorithm : Obligations.SelIterFollowsTheAlgorithm := by
  intro s level a b d c lo c' hi
  have hjitter : selJitter s = (a.1 + b.1, b.2) := rfl
  have hlow : lowClamp d b.2 = lo := rfl
  have hhigh : highClamp lo.1 lo.2 = hi := rfl
  rw [← hhigh, ← hlow, selIter, hjitter]
  rfl

/-! ## The slots the iterations read (R103) -/

/-- The one load of the block reads the slot of the chosen table (R107). -/
theorem tableRead_eq_getElem? {p : Params} (hp : p.wf) (cat : Category) {idx : Int} (h1 : idx ≤ 25) :
    tableRead p cat idx = (tableOf p cat)[idx.toNat]? := by
  cases cat with
  | resident => exact tableRead_resident hp h1
  | wandering => exact tableRead_wandering hp h1

theorem slotAt_eq_getElem? {p : Params} (hp : p.wf) (level : Int) (cat : Category) (k : Nat) (s : Int) :
    slotAt p level cat k s = (tableOf p cat)[(iterIndex level k s).toNat]? :=
  tableRead_eq_getElem? hp cat (selIter_index_bounds _ level).2

/-- The first `k` iterations all land on a blank. -/
def BlankUpTo (p : Params) (level : Int) (cat : Category) (k : Nat) (s : Int) : Prop :=
  ∀ j, j < k → slotAt p level cat j s = some blank

/-- Iteration `k + 1` is the first that does not land on a blank, and its slot holds `ch`. -/
structure FirstSpecies (p : Params) (level : Int) (cat : Category) (s : Int) (k : Nat) (ch : Byte) : Prop where
  blank_before : BlankUpTo p level cat k s
  slot : slotAt p level cat k s = some ch
  ne_blank : ch ≠ blank

section
variable {p : Params} {level : Int} {cat : Category} {s : Int} {k n : Nat} {ch : Byte}

theorem blankUpTo_zero : BlankUpTo p level cat 0 s := fun _ hj => absurd hj (Nat.not_lt_zero _)

/-- A blank first slot puts one more blank before those of the iterations that follow it. -/
theorem BlankUpTo.succ (h0 : slotAt p level cat 0 s = some blank) (h : BlankUpTo p level cat k (selIter s level).2) :
    BlankUpTo p level cat (k + 1) s := by
  intro j hj
  cases j with
  | zero => exact h0
  | succ j => exact h j (by omega)

theorem FirstSpecies.succ (h0 : slotAt p level cat 0 s = some blank)
    (h : FirstSpecies p level cat (selIter s level).2 k ch) : FirstSpecies p level cat s (k + 1) ch :=
  ⟨h.blank_before.succ h0, h.slot, h.ne_blank⟩

/-- A run of blanks ends where the first species stands. -/
theorem FirstSpecies.le_of_blankUpTo (h : FirstSpecies p level cat s k ch) (hb : BlankUpTo p level cat n s) : n ≤ k := by
  by_contra hlt
  exact h.ne_blank (Option.some.inj (h.slot.symm.trans (hb k (by omega))))

theorem FirstSpecies.unique {k' : Nat} {ch' : Byte} (h : FirstSpecies p level cat s k ch)
    (h' : FirstSpecies p level cat s k' ch') : k = k' ∧ ch = ch' := by
  have hk : k = k' := Nat.le_antisymm (h'.le_of_blankUpTo h.blank_before) (h.le_of_blankUpTo h'.blank_before)
  subst hk
  exact ⟨rfl, Option.some.inj (h.slot.symm.trans h'.slot)⟩

/-- A species that is found is one of the chosen table. -/
theorem FirstSpecies.mem_tableOf (hp : p.wf) (h : FirstSpecies p level cat s k ch) : ch ∈ tableOf p cat :=
  List.mem_of_getElem? ((slotAt_eq_getElem? hp level cat k s).symm.trans h.slot)

/-! ## How the loop ends (R103) -/

/-- Both ends of the loop: the first species within its iterations, or every one of them on a blank. -/
theorem selLoop_cases (hp : p.wf) (level : Int) (cat : Category) (n : Nat) (s : Int) :
    (∃ k ch, k < n ∧ FirstSpecies p level cat s k ch ∧ selLoop p level cat n s = .found ch (iterState level (k + 1) s)) ∨
    (BlankUpTo p level cat n s ∧ selLoop p level cat n s = .exhausted (iterState level n s)) := by
  induction n generalizing s with
  | zero => exact .inr ⟨blankUpTo_zero, rfl⟩
  | succ n ih =>
    obtain ⟨c, hslot, hturn⟩ := selLoop_succ hp level cat n s
    by_cases hc : c = blank
    · subst hc
      rw [hturn, if_pos rfl]
      rcases ih (selIter s level).2 with ⟨k, ch, hk, hfirst, hloop⟩ | ⟨hblank, hloop⟩
      · exact .inl ⟨k + 1, ch, by omega, hfirst.succ hslot, hloop⟩
      · exact .inr ⟨hblank.succ hslot, hloop⟩
    · rw [hturn, if_neg hc]
      exact .inl ⟨0, c, by omega, ⟨blankUpTo_zero, hslot, hc⟩, rfl⟩

theorem selLoop_of_firstSpecies (hp : p.wf) (hk : k < n) (h : FirstSpecies p level cat s k ch) :
    selLoop p level cat n s = .found ch (iterState level (k + 1) s) := by
  rcases selLoop_cases hp level cat n s with ⟨k', ch', -, h', hloop⟩ | ⟨hblank, -⟩
  · obtain ⟨rfl, rfl⟩ := h.unique h'
    exact hloop
  · exact absurd (h.le_of_blankUpTo hblank) (by omega)

theorem selLoop_of_blankUpTo (hp : p.wf) (h : BlankUpTo p level cat n s) :
    selLoop p level cat n s = .exhausted (iterState level n s) := by
  rcases selLoop_cases hp level cat n s with ⟨k, ch, hk, hfirst, -⟩ | ⟨-, hloop⟩
  · exact absurd (hfirst.le_of_blankUpTo h) (by omega)
  · exact hloop

theorem selLoop_eq_found_iff (hp : p.wf) {v : Int} : selLoop p level cat n s = .found ch v ↔
    ∃ k, k < n ∧ FirstSpecies p level cat s k ch ∧ v = iterState level (k + 1) s := by
  constructor
  · intro h
    rcases selLoop_cases hp level cat n s with ⟨k, c, hk, hfirst, hloop⟩ | ⟨-, hloop⟩
    · cases hloop.symm.trans h
      exact ⟨k, hk, hfirst, rfl⟩
    · cases hloop.symm.trans h
  · rintro ⟨k, hk, hfirst, rfl⟩
    exact selLoop_of_firstSpecies hp hk hfirst

theorem selLoop_eq_exhausted_iff (hp : p.wf) {v : Int} : selLoop p level cat n s = .exhausted v ↔
    BlankUpTo p level cat n s ∧ v = iterState level n s := by
  constructor
  · intro h
    rcases selLoop_cases hp level cat n s with ⟨k, c, -, -, hloop⟩ | ⟨hblank, hloop⟩
    · cases hloop.symm.trans h
    · cases hloop.symm.trans h
      exact ⟨hblank, rfl⟩
  · rintro ⟨hblank, rfl⟩
    exact selLoop_of_blankUpTo hp hblank

end

/-- Settles O22: the two equivalences take `FirstSpecies` apart, and the third end of the loop is `selLoop_ne_hole`. -/
theorem selLoopFindsTheFirstSpecies : Obligations.SelLoopFindsTheFirstSpecies := by
  intro p level cat n s hp _
  refine ⟨fun ch v => (selLoop_eq_found_iff hp).trans ?_, fun v => selLoop_eq_exhausted_iff hp,
    selLoop_ne_hole hp level cat n s⟩
  constructor
  · rintro ⟨k, hk, ⟨hbefore, hslot, hne⟩, hv⟩
    exact ⟨k, hk, hbefore, hslot, hne, hv⟩
  · rintro ⟨k, hk, hbefore, hslot, hne, hv⟩
    exact ⟨k, hk, ⟨hbefore, hslot, hne⟩, hv⟩

/-! ## SELECT (R104, R110) -/

/-- The OK response that carries a byte (30_encoding.md R64). -/
theorem formatR_ok_byte (ch : Byte) : formatR .ok (ch.setWidth 32) = 0#56 ++ ch := by
  apply BitVec.eq_of_getLsbD_eq
  intro k _
  rw [getLsbD_formatR, BitVec.getLsbD_append]
  by_cases hk : k < 8
  · simp [hk, show k < 32 by omega]
  · simp [hk, BitVec.getLsbD_of_ge ch k (by omega), Status.code]

/-- SELECT below level 1, seeded or not. -/
theorem exec_select_of_lt_one {imm : Int} (himm : imm < 1) (cat : Category) (s : State) :
    exec (.select imm cat) s = .next (raise .invalidLevel s) := by
  rcases exec_select_cases imm cat s with ⟨-, h⟩ | ⟨himm', -⟩ | ⟨himm', -⟩ | ⟨himm', -⟩
  · exact h
  all_goals omega

/-- The two ends of SELECT on a seeded block: the first species among 64 iterations, or 64 blanks. -/
theorem exec_select_of_seeded {imm : Int} (cat : Category) {s : State} (himm : 1 ≤ imm) (hs : s.seeded = true) :
    (∃ k ch, k < 64 ∧ FirstSpecies params imm cat (readState s) k ch ∧ exec (.select imm cat) s =
      .next (respond (ch.setWidth 32) (writeState (iterState imm (k + 1) (readState s)) s))) ∨
    (BlankUpTo params imm cat 64 (readState s) ∧ exec (.select imm cat) s =
      .next (raise .exhausted (writeState (iterState imm 64 (readState s)) s))) := by
  rcases exec_select_cases imm cat s with ⟨hlt, -⟩ | ⟨-, hs', -⟩ | ⟨-, -, ch, v, hloop, h⟩ | ⟨-, -, v, hloop, h⟩
  · omega
  · simp [hs] at hs'
  · obtain ⟨k, hk, hfirst, rfl⟩ := (selLoop_eq_found_iff params_wf).mp hloop
    exact .inl ⟨k, ch, hk, hfirst, h⟩
  · obtain ⟨hblank, rfl⟩ := (selLoop_eq_exhausted_iff params_wf).mp hloop
    exact .inr ⟨hblank, h⟩

theorem exec_select_of_firstSpecies {imm : Int} {cat : Category} {s : State} {k : Nat} {ch : Byte} (himm : 1 ≤ imm)
    (hs : s.seeded = true) (hk : k < 64) (h : FirstSpecies params imm cat (readState s) k ch) :
    exec (.select imm cat) s =
      .next (respond (ch.setWidth 32) (writeState (iterState imm (k + 1) (readState s)) s)) := by
  rcases exec_select_of_seeded cat himm hs with ⟨k', ch', -, h', hrun⟩ | ⟨hblank, -⟩
  · obtain ⟨rfl, rfl⟩ := h.unique h'
    exact hrun
  · exact absurd (h.le_of_blankUpTo hblank) (by omega)

theorem exec_select_of_blankUpTo {imm : Int} {cat : Category} {s : State} (himm : 1 ≤ imm) (hs : s.seeded = true)
    (h : BlankUpTo params imm cat 64 (readState s)) :
    exec (.select imm cat) s = .next (raise .exhausted (writeState (iterState imm 64 (readState s)) s)) := by
  rcases exec_select_of_seeded cat himm hs with ⟨k, ch, hk, hfirst, -⟩ | ⟨-, hrun⟩
  · exact absurd (hfirst.le_of_blankUpTo h) (by omega)
  · exact hrun

/-- The state after at least one iteration reads back from STATE. -/
theorem toInt_writeState_iterState (imm : Int) (k : Nat) (v : Int) (s : State) :
    (writeState (iterState imm (k + 1) v) s).state.toInt = iterState imm (k + 1) v :=
  toInt_writeState_of_isReduced (iterState_bounds imm k v) s

/-- Settles O23: one lemma per case of SELECT; the draws of `k` iterations are `iterState_eq_iterate`. -/
theorem selectCommand : Obligations.SelectCommand := by
  intro imm cat s _
  refine ⟨fun himm => ?_, fun himm hs => ?_, fun k ch himm hs hk hbefore hslot hne => ?_, fun himm hs hblank => ?_,
    iterState_eq_iterate imm⟩
  · exact exec_select_of_lt_one himm cat s
  · rw [exec_of_unseeded _ hs, unseededRun, if_neg (by omega)]
    rfl
  · have hfirst : FirstSpecies params imm cat (readState s) k ch := ⟨hbefore, hslot, hne⟩
    exact ⟨_, exec_select_of_firstSpecies himm hs hk hfirst, toInt_writeState_iterState imm k _ s,
      hfirst.mem_tableOf params_wf, congrArg some (formatR_ok_byte ch), rfl⟩
  · exact ⟨_, exec_select_of_blankUpTo himm hs hblank, toInt_writeState_iterState imm 63 _ s, rfl, rfl⟩

/-- Settles O24: the two ends of `exec_select_of_seeded`. -/
theorem selectAnswersASpeciesOfItsTable : Obligations.SelectAnswersASpeciesOfItsTable := by
  intro imm cat s himm hs
  rcases exec_select_of_seeded cat himm hs with ⟨k, ch, -, hfirst, h⟩ | ⟨-, h⟩
  · exact ⟨_, h, .inr ⟨ch, hfirst.mem_tableOf params_wf, hfirst.ne_blank, congrArg some (formatR_ok_byte ch)⟩⟩
  · exact ⟨_, h, .inl rfl⟩

end Sys2Proof.Machine
end

section
/-! PROOF. The faults (60_exceptions.md): what each fault leaves (R128), that none is sticky, and the order of the checks that
decide the status of a response (R127). -/

namespace Sys2Proof.Machine

/-! ## The status a response shows (R120) -/

@[simp] theorem shownStatus_respond (result : Word) (s : State) : shownStatus (respond result s) = 0x00#8 :=
  rspStatus_formatR .ok result

@[simp] theorem shownStatus_raise (fault : Status) (s : State) : shownStatus (raise fault s) = fault.code :=
  rspStatus_formatR fault 0#32

/-! ## What a fault leaves (R128) -/

/-- The three ways a command ends: an OK response; a fault before any draw, raised on the state as it was; or Exhausted, which
only SELECT raises, after the draws of its 64 iterations. -/
theorem exec_responds_or_raises (i : Instr) (s : State) :
    (∃ result u, exec i s = .next (respond result u)) ∨
    (∃ fault, (fault = .notSeeded ∨ fault = .invalidLevel) ∧ exec i s = .next (raise fault s)) ∨
    (∃ imm cat, i = .select imm cat ∧
      exec i s = .next (raise .exhausted (writeState (iterState imm 64 (readState s)) s))) := by
  cases i with
  | seed imm => exact .inl ⟨_, _, exec_seed imm s⟩
  | draw =>
    rcases exec_draw_cases s with ⟨-, h⟩ | ⟨-, h⟩
    · exact .inl ⟨_, _, h⟩
    · exact .inr (.inl ⟨_, .inl rfl, h⟩)
  | rnd imm =>
    rcases exec_rnd_cases imm s with ⟨-, h⟩ | ⟨-, -, h⟩ | ⟨-, -, h⟩
    · exact .inl ⟨_, _, h⟩
    · exact .inr (.inl ⟨_, .inl rfl, h⟩)
    · exact .inl ⟨_, _, h⟩
  | select imm cat =>
    rcases exec_select_cases imm cat s with ⟨-, h⟩ | ⟨-, -, h⟩ | ⟨-, -, ch, v, -, h⟩ | ⟨-, -, v, hloop, h⟩
    · exact .inr (.inl ⟨_, .inr rfl, h⟩)
    · exact .inr (.inl ⟨_, .inl rfl, h⟩)
    · exact .inl ⟨_, _, h⟩
    · obtain rfl := state_of_selLoop_eq_exhausted params_wf hloop
      exact .inr (.inr ⟨imm, cat, rfl, h⟩)

/-! ## No fault is sticky (R128): a command reads neither the response channel nor the host's record -/

theorem unseededRun_with_rsp_taken (i : Instr) (s : State) (r : Option RspWord) (l : List RspWord) :
    unseededRun i { s with rsp := r, taken := l } = { unseededRun i s with taken := l } := by
  cases i with
  | seed | draw => rfl
  | rnd | select =>
    simp only [unseededRun]
    split <;> rfl

/-- One command on two blocks that differ in nothing but the response before it and the responses taken. -/
theorem exec_with_rsp_taken (i : Instr) (s : State) (r : Option RspWord) (l : List RspWord) :
    ∃ t, exec i s = .next t ∧ exec i { s with rsp := r, taken := l } = .next { t with taken := l } := by
  rcases Bool.eq_false_or_eq_true s.seeded with hs | hs
  · have hs' : ({ s with rsp := r, taken := l } : State).seeded = true := hs
    cases i with
    | seed imm => exact ⟨_, exec_seed imm s, exec_seed imm _⟩
    | draw => exact ⟨_, exec_draw_of_seeded hs, exec_draw_of_seeded hs'⟩
    | rnd imm =>
      rcases lt_or_ge imm 1 with himm | himm
      · exact ⟨_, exec_rnd_of_lt_one himm s, exec_rnd_of_lt_one himm _⟩
      · exact ⟨_, exec_rnd_of_seeded himm hs, exec_rnd_of_seeded himm hs'⟩
    | select imm cat =>
      rcases lt_or_ge imm 1 with himm | himm
      · exact ⟨_, exec_select_of_lt_one himm cat s, exec_select_of_lt_one himm cat _⟩
      · rcases exec_select_of_seeded cat himm hs with ⟨k, ch, hk, hfirst, h⟩ | ⟨hblank, h⟩
        · exact ⟨_, h, exec_select_of_firstSpecies himm hs' hk hfirst⟩
        · exact ⟨_, h, exec_select_of_blankUpTo himm hs' hblank⟩
  · refine ⟨_, exec_of_unseeded i hs, ?_⟩
    rw [exec_of_unseeded i (s := { s with rsp := r, taken := l }) hs, unseededRun_with_rsp_taken]

/-- Settles O33: what each fault leaves is read off `exec_responds_or_raises`, RESULT off the frame of a command, and the last
clause is `exec_with_rsp_taken`. -/
theorem faultsArePreciseAndNotSticky : Obligations.FaultsArePreciseAndNotSticky := by
  intro i s t ht
  have hresult : ∀ r, t.rsp = some r → rspStatus r ≠ 0#8 → rspResult r = 0#32 := by
    intro r hr
    obtain ⟨-, -, -, q, hq, -, -, hzero⟩ := commandFrame i s t ht
    obtain rfl := Option.some.inj (hq.symm.trans hr)
    exact hzero
  have hsticky : ∀ r l, exec i { s with rsp := r, taken := l } = .next { t with taken := l } := by
    intro r l
    obtain ⟨u, hu, h⟩ := exec_with_rsp_taken i s r l
    obtain rfl := Host.Outcome.next.inj (ht.symm.trans hu)
    exact h
  rcases exec_responds_or_raises i s with ⟨result, u, h⟩ | ⟨fault, hfault, h⟩ | ⟨imm, cat, hi, h⟩ <;>
    obtain rfl := Host.Outcome.next.inj (ht.symm.trans h)
  · exact ⟨by simp, by simp, hresult, hsticky⟩
  · refine ⟨fun _ => rfl, fun h4 => ?_, hresult, hsticky⟩
    rcases hfault with rfl | rfl <;> simp [Status.code] at h4
  · exact ⟨by simp [Status.code], fun _ => ⟨imm, cat, hi, rfl⟩, hresult, hsticky⟩

/-! ## The order of the checks (R127), one command at a time -/

section
variable {s t : State} {imm : Int}

theorem shownStatus_of_exec_seed (ht : exec (.seed imm) s = .next t) : shownStatus t = 0x00#8 := by
  obtain rfl := Host.Outcome.next.inj (ht.symm.trans (exec_seed imm s))
  exact shownStatus_respond _ _

theorem shownStatus_of_exec_draw (ht : exec .draw s = .next t) :
    shownStatus t = if s.seeded then 0x00#8 else 0x02#8 := by
  rcases exec_draw_cases s with ⟨hs, h⟩ | ⟨hs, h⟩ <;> obtain rfl := Host.Outcome.next.inj (ht.symm.trans h)
  · simp [hs]
  · simp [hs, Status.code]

theorem shownStatus_of_exec_rnd (ht : exec (.rnd imm) s = .next t) :
    shownStatus t = if imm < 1 then 0x00#8 else if s.seeded then 0x00#8 else 0x02#8 := by
  rcases exec_rnd_cases imm s with ⟨himm, h⟩ | ⟨himm, hs, h⟩ | ⟨himm, hs, h⟩ <;>
    obtain rfl := Host.Outcome.next.inj (ht.symm.trans h)
  · simp [himm]
  · simp [himm.not_gt, hs, Status.code]
  · simp [hs]

/-- SELECT: the level, then SEEDED, then whether the first 64 iterations all land on a blank. -/
theorem shownStatus_of_exec_select {cat : Category} (ht : exec (.select imm cat) s = .next t) :
    shownStatus t =
      if imm < 1 then 0x03#8
      else if s.seeded then
        if ∀ j : Nat, j < 64 → slotAt params imm cat j s.state.toInt = some 0x20#8 then 0x04#8 else 0x00#8
      else 0x02#8 := by
  rcases lt_or_ge imm 1 with himm | himm
  · obtain rfl := Host.Outcome.next.inj (ht.symm.trans (exec_select_of_lt_one himm cat s))
    rw [if_pos himm]
    exact shownStatus_raise _ _
  rw [if_neg himm.not_gt]
  cases hs : s.seeded with
  | false =>
    obtain rfl := Host.Outcome.next.inj (ht.symm.trans (exec_of_unseeded _ hs))
    rw [unseededRun, if_neg himm.not_gt]
    exact shownStatus_raise _ _
  | true =>
    rw [if_pos rfl]
    rcases exec_select_of_seeded cat himm hs with ⟨k, ch, hk, hfirst, h⟩ | ⟨hblank, h⟩ <;>
      obtain rfl := Host.Outcome.next.inj (ht.symm.trans h)
    · have hnot : ¬ BlankUpTo params imm cat 64 (readState s) := fun hb => absurd (hfirst.le_of_blankUpTo hb) (by omega)
      exact (shownStatus_respond _ _).trans (if_neg hnot).symm
    · exact (shownStatus_raise _ _).trans (if_pos hblank).symm

end

/-- Settles O45: a ready block runs its word, and the word spells no command or one of the four, whose status has a lemma each. -/
theorem statusFollowsTheOrderOfChecks : Obligations.StatusFollowsTheOrderOfChecks := by
  intro s w rest hready hcmds
  obtain ⟨v, b, st, result, -, -, hrun⟩ := runWord_ends w (accept rest s)
  refine ⟨_, (step_of_ready hready hcmds).trans hrun, rfl, rfl, ?_⟩
  unfold runWord at hrun
  cases hdec : decode w with
  | none =>
    rw [hdec] at hrun
    rw [← Host.Outcome.next.inj hrun]
    exact shownStatus_raise _ _
  | some i =>
    rw [hdec] at hrun
    cases i with
    | seed imm => exact shownStatus_of_exec_seed (s := accept rest s) hrun
    | draw => exact shownStatus_of_exec_draw (s := accept rest s) hrun
    | rnd imm => exact shownStatus_of_exec_rnd (s := accept rest s) hrun
    | select imm cat => exact shownStatus_of_exec_select (s := accept rest s) hrun

end Sys2Proof.Machine
end

section
/-! PROOF. Reset and the hazards (70_reset_and_hazards.md): what asserting, holding and releasing `rst` do (R140 to R142), and
that a seeded block never answers NotSeeded (R143, R144). -/

namespace Sys2Proof.Machine

/-! ## The reset input where nothing is being accepted (R140) -/

theorem step_setRst_true {s : State} {rest : List HostEvent} (hnone : AcceptsNothing s)
    (hhost : s.host = .setRst true :: rest) : step s = .next (enterReset { s with host := rest }) := by
  rw [step_of_acceptsNothing hnone, hostMove_of_cons hhost, hostEvent]

theorem step_setRst_false {s : State} {rest : List HostEvent} (hnone : AcceptsNothing s)
    (hhost : s.host = .setRst false :: rest) : step s = .next { s with rst := false, host := rest } := by
  rw [step_of_acceptsNothing hnone, hostMove_of_cons hhost, hostEvent]

/-- Settles O38: the assertion and the release are one move of the host each; a word that a ready block accepts first leaves it
busy with a response (`runWord_ends`), which the assertion then withdraws. -/
theorem resetAbandonsTheCommand : Obligations.ResetAbandonsTheCommand := by
  refine ⟨fun s rest hnone hhost => ?assert, fun s w ws rest hready hcmds hhost => ?abandon,
    fun s rest hnone hhost => ?release⟩
  case assert => exact ⟨_, step_setRst_true hnone hhost, rfl, rfl, rfl⟩
  case abandon =>
    obtain ⟨v, b, st, result, -, -, hrun⟩ := runWord_ends w (accept ws s)
    have hanswer := (step_of_ready hready hcmds).trans hrun
    have hassert := step_setRst_true
      (s := { accept ws s with state := v, seeded := b, rsp := some (formatR st result) }) (.inl rfl) hhost
    exact ⟨_, (run_succ hanswer 1).trans (run_succ hassert 0), rfl, rfl, rfl⟩
  case release => exact ⟨_, step_setRst_false hnone hhost, rfl, Bool.and_true _⟩

/-! ## Reset held (R141, R142) -/

/-- Settles O40: the block is idle, no response stands on the channel and none was taken. -/
theorem resetMeetsInv : Obligations.ResetMeetsInv where
  busy_iff := rfl
  rsp_wf _ h := nomatch h
  taken_wf _ h := nomatch h
  held _ := ⟨rfl, rfl⟩

/-- No response waits while reset is held: the block is not busy then. -/
theorem Inv.rsp_eq_none_of_held {s : State} (hs : Inv s) (hrst : s.rst = true) : s.rsp = none := by
  simpa [hs.busy_iff] using (hs.held hrst).1

/-- While reset is held, a move of the host that does not release it transfers nothing and loses no word. -/
theorem hostMove_of_held {s : State} (hs : Inv s) (hrst : s.rst = true) (hhead : s.host.head? ≠ some (.setRst false)) :
    (hostMove s).rst = true ∧ (hostMove s).taken = s.taken ∧ (hostMove s).host = s.host.tail ∧
      s.cmds <+: (hostMove s).cmds := by
  rcases hostMove_cases s with ⟨hh, h⟩ | ⟨w, rest, hh, h⟩ | ⟨rest, hh, h⟩ | ⟨rest, hh, h⟩ | ⟨rest, hh, h⟩ <;> rw [h, hh]
  · exact ⟨hrst, rfl, rfl, List.prefix_rfl⟩
  · exact ⟨hrst, rfl, rfl, List.prefix_append _ _⟩
  · rcases transfer_cases { s with host := rest } with ⟨-, ht⟩ | ⟨r, hr, -⟩
    · rw [ht]
      exact ⟨hrst, rfl, rfl, List.prefix_rfl⟩
    · exact absurd ((hs.rsp_eq_none_of_held hrst).symm.trans hr) nofun
  · exact ⟨rfl, rfl, rfl, List.prefix_rfl⟩
  · exact absurd (congrArg List.head? hh) hhead

/-- Settles O49, by induction on the number of steps: each is a move of the host as in `hostMove_of_held`, and the invariant makes
the block it ends in idle and unseeded. -/
theorem heldResetAcceptsNothing : Obligations.HeldResetAcceptsNothing := by
  intro n
  induction n with
  | zero =>
    intro s hs hrst _
    exact ⟨s, rfl, hrst, (hs.held hrst).2, (hs.held hrst).1, hs.rsp_eq_none_of_held hrst, rfl, rfl, List.prefix_rfl⟩
  | succ n ih =>
    intro s hs hrst hkept
    have hstep : step s = .next (hostMove s) := step_of_acceptsNothing (.inr (.inl hrst))
    have hhead : s.host.head? ≠ some (.setRst false) ∧ HostEvent.setRst false ∉ s.host.tail.take n := by
      cases hh : s.host with
      | nil => simp
      | cons e rest => simpa [hh, eq_comm] using hkept
    obtain ⟨hrst', htaken, hhost, hcmds⟩ := hostMove_of_held hs hrst hhead.1
    obtain ⟨t, hrun, ht, hseeded, hbusy, hrsp, htaken', hhost', hcmds'⟩ :=
      ih (hostMove s) (hostMove_keeps_inv hs) hrst' (hhost ▸ hhead.2)
    refine ⟨t, (run_succ hstep n).trans hrun, ht, hseeded, hbusy, hrsp, htaken'.trans htaken, ?_, hcmds.trans hcmds'⟩
    rw [hhost', hhost, List.drop_tail]

/-! ## A seeded block (R143, R144) -/

/-- No command clears SEEDED: SEED sets it and the others leave it. -/
theorem seeded_of_exec {i : Instr} {s t : State} (hs : s.seeded = true) (ht : exec i s = .next t) : t.seeded = true := by
  obtain ⟨v, st, result, -, h⟩ := exec_ends i s
  obtain rfl := Host.Outcome.next.inj (ht.symm.trans h)
  rcases seededAfter_cases i s.seeded with hkeep | ⟨hset, -⟩
  · exact hkeep.trans hs
  · exact hset

/-- Settles O46: a command keeps SEEDED, and the status each shows is 0x02 only on an unseeded block. -/
theorem seededBlockNeverAnswersNotSeeded : Obligations.SeededBlockNeverAnswersNotSeeded := by
  intro i s t hs ht
  refine ⟨seeded_of_exec hs ht, ?_⟩
  cases i with
  | seed imm => simp [shownStatus_of_exec_seed ht]
  | draw => simp [shownStatus_of_exec_draw ht, hs]
  | rnd imm => simp [shownStatus_of_exec_rnd ht, hs]
  | select imm cat =>
    rw [shownStatus_of_exec_select ht, if_pos hs]
    split_ifs <;> decide

end Sys2Proof.Machine
end

section
/-! PROOF. The decoder and the encoder undo each other (30_encoding.md R72), and the worked encodings of section 8. -/

namespace Sys2Proof.Machine

theorem selects_rowOf_encode (i : Instr) : selects (rowOf i) (encode i) = true := by
  cases i with
  | seed imm => exact Laws.EncodesInRow.seed imm
  | draw => exact Laws.EncodesInRow.draw
  | rnd imm => exact Laws.EncodesInRow.rnd imm
  | select imm cat => exact Laws.EncodesInRow.select imm cat

theorem catOfBit_catBit (cat : Category) : catOfBit (catBit cat) = cat := by cases cat <;> rfl

theorem catBit_catOfBit (b : BitVec 1) : catBit (catOfBit b) = b := by
  rcases BitVec.eq_zero_or_eq_one b with rfl | rfl <;> rfl

/-- The word of a command carries the command's own operands: each fits its field (R65). -/
theorem withOperandsOf_encode {i : Instr} (h : WellFormed i) : withOperandsOf (encode i) i = i := by
  cases i with
  | seed imm | rnd imm => rw [encode, withOperandsOf, immField_formatC, sext32_toBits32 (of_decide_eq_true h)]
  | draw => rfl
  | select imm cat =>
    rw [encode, withOperandsOf, immField_formatC, wField_formatC, sext32_toBits32 (of_decide_eq_true h), catOfBit_catBit]

/-- A word that selects a row is the row's operation code and the operands read from it, and nothing else (R63, R66). -/
theorem encode_withOperandsOf {w : CmdWord} {i : Instr} (h : selects (rowOf i) w = true) :
    encode (withOperandsOf w i) = w := by
  cases i with
  | seed imm =>
    obtain ⟨hopc, hzero, hw⟩ := (selects_seedRow w).mp h
    rw [withOperandsOf, encode, toBits32_sext32, ← hopc, ← hw, ← eq_formatC_of_zeroField hzero]
  | draw =>
    obtain ⟨hopc, hzero, hw, himm⟩ := (selects_drawRow w).mp h
    rw [withOperandsOf, encode, ← hopc, ← hw, ← himm, ← eq_formatC_of_zeroField hzero]
  | rnd imm =>
    obtain ⟨hopc, hzero, hw⟩ := (selects_rndRow w).mp h
    rw [withOperandsOf, encode, toBits32_sext32, ← hopc, ← hw, ← eq_formatC_of_zeroField hzero]
  | select imm cat =>
    obtain ⟨hopc, hzero⟩ := (selects_selectRow w).mp h
    rw [withOperandsOf, encode, toBits32_sext32, catBit_catOfBit, ← hopc, ← eq_formatC_of_zeroField hzero]

theorem decode_encode {i : Instr} (h : WellFormed i) : decode (encode i) = some i :=
  decode_eq_some_iff.mpr ⟨selects_rowOf_encode i, (withOperandsOf_encode h).symm⟩

theorem encode_of_decode {w : CmdWord} {i : Instr} (h : decode w = some i) : encode i = w := by
  obtain ⟨hrow, hi⟩ := decode_eq_some_iff.mp h
  rw [hi]
  exact encode_withOperandsOf hrow

/-- Settles O8: `decode_encode` and `encode_of_decode`; two words of one command are both its encoding. -/
theorem decodeAndEncodeAgree : Obligations.DecodeAndEncodeAgree :=
  ⟨fun _ hi => decode_encode hi, fun _ _ hw => ⟨wellFormed_of_decode hw, encode_of_decode hw⟩,
    fun _ _ _ hw hw' => (encode_of_decode hw).symm.trans (encode_of_decode hw')⟩

/-- Settles O11: each word is evaluated. -/
theorem workedEncodingsDecode : Obligations.WorkedEncodingsDecode :=
  ⟨by decide, by decide, by decide, by decide, by decide, by decide, by decide, by decide⟩

end Sys2Proof.Machine
end

section
/-! PROOF. What the recurrence and the range-mapped draw guarantee (40_generator.md R82, R85). -/

namespace Sys2Proof.Machine

/-! ## The recurrence as a congruence: a draw is 125 times the state, modulo 2796203 (R81) -/

theorem dvd_mul_sub_lcgStep (s : Int) : (2796203 : Int) ∣ 125 * s - lcgStep s := by
  rw [lcgStep_eq_tmod]
  exact Int.dvd_self_sub_tmod

/-- 125 is a unit modulo 2796203, so exactly the multiples of the modulus are drawn to 0 (R82 e). -/
theorem lcgStep_eq_zero_iff {s : Int} : lcgStep s = 0 ↔ (2796203 : Int) ∣ s := by
  refine ⟨fun h => ?_, lcgStep_eq_zero_of_dvd⟩
  have := dvd_mul_sub_lcgStep s
  omega

theorem lcgStep_ne_zero {v : Int} (hred : IsReduced v) (hne : v ≠ 0) : lcgStep v ≠ 0 := by
  intro h
  have := lcgStep_eq_zero_iff.mp h
  obtain ⟨hlow, hhigh⟩ := hred
  omega

/-- For the same reason equal draws come from congruent states. -/
theorem dvd_sub_of_lcgStep_eq {a b : Int} (h : lcgStep a = lcgStep b) : (2796203 : Int) ∣ a - b := by
  have ha := dvd_mul_sub_lcgStep a
  have hb := dvd_mul_sub_lcgStep b
  omega

theorem lcgStep_neg (s : Int) : lcgStep (-s) = -lcgStep s := by
  rw [lcgStep, mul_neg, trem_neg, lcgStep]

/-- A draw depends on the state's remainder alone (R82 f). -/
theorem lcgStep_trem (s : Int) : lcgStep (trem s 2796203) = lcgStep s := by
  rw [lcgStep_eq_tmod, trem_eq_tmod, Int.mul_tmod, Int.tmod_tmod, ← Int.mul_tmod, lcgStep_eq_tmod]

theorem lcgStep_congr {a b : Int} (h : trem a 2796203 = trem b 2796203) : lcgStep a = lcgStep b := by
  rw [← lcgStep_trem a, h, lcgStep_trem]

/-! ## A draw permutes the non-zero reduced states of either sign (R82 g) -/

theorem lcgStep_mapsTo_pos : Set.MapsTo lcgStep (Set.Icc 1 2796202) (Set.Icc 1 2796202) := by
  rintro s ⟨hlow, hhigh⟩
  have hne : lcgStep s ≠ 0 := lcgStep_ne_zero ⟨by omega, hhigh⟩ (by omega)
  have hnonneg := lcgStep_nonneg (s := s) (by omega)
  exact ⟨by omega, (lcgStep_bounds s).2⟩

theorem lcgStep_mapsTo_neg : Set.MapsTo lcgStep (Set.Icc (-2796202) (-1)) (Set.Icc (-2796202) (-1)) := by
  intro s hs
  have h := lcgStep_mapsTo_pos (Set.neg_mem_Icc_iff.mpr hs)
  rwa [lcgStep_neg, Set.neg_mem_Icc_iff] at h

/-- An interval shorter than the modulus that draws do not leave is permuted by them: no two of its states are congruent. -/
theorem lcgStep_bijOn {low high : Int} (hlen : high - low < 2796203)
    (hmaps : Set.MapsTo lcgStep (Set.Icc low high) (Set.Icc low high)) :
    Set.BijOn lcgStep (Set.Icc low high) (Set.Icc low high) := by
  refine ((Set.finite_Icc low high).injOn_iff_bijOn_of_mapsTo hmaps).mp ?_
  rintro a ⟨ha, ha'⟩ b ⟨hb, hb'⟩ h
  have := dvd_sub_of_lcgStep_eq h
  omega

/-- Settles O5: the clauses are the lemmas above, in the rule's order. -/
theorem stepLaws : Obligations.StepLaws :=
  ⟨lcgStep_eq_tmod, lcgStep_bounds, lcgStep_neg,
    fun _ hs => ⟨trem_eq_emod modulus (Int.mul_nonneg (by decide) hs), lcgStep_nonneg hs⟩,
    fun _ => ⟨fun hs => lcgStep_nonneg hs.le, fun hs => lcgStep_nonpos hs.le⟩, rfl,
    fun _ => lcgStep_eq_zero_iff, fun s => (lcgStep_trem s).symm,
    lcgStep_bijOn (by decide) lcgStep_mapsTo_pos, lcgStep_bijOn (by decide) lcgStep_mapsTo_neg⟩

/-! ## The range-mapped draw (R85) -/

/-- The two draws a range-mapped draw adds up have the state's sign, so their sum is masked to itself where the state is not
negative (R85 d). -/
theorem maskSum_draws_of_nonneg {s : Int} (hs : 0 ≤ s) :
    maskSum (lcgStep s + lcgStep (lcgStep s)) = lcgStep s + lcgStep (lcgStep s) := by
  have h₁ := lcgStep_nonneg hs
  have h₂ := lcgStep_nonneg h₁
  have hsum := lcgStep_add_lcgStep_bounds s
  rw [maskSum, maskSpan]
  omega

/-- Where the state is negative and no multiple of the modulus, the sum is negative, and the mask adds 2^31 (R85 e). -/
theorem maskSum_draws_of_neg {s : Int} (hs : s < 0) (hdvd : ¬ (2796203 : Int) ∣ s) :
    lcgStep s + lcgStep (lcgStep s) < 0 ∧
    maskSum (lcgStep s + lcgStep (lcgStep s)) = 2147483648 + (lcgStep s + lcgStep (lcgStep s)) := by
  have h₁ := lcgStep_nonpos hs.le
  have h₂ := lcgStep_nonpos h₁
  have hne : lcgStep s ≠ 0 := fun h => hdvd (lcgStep_eq_zero_iff.mp h)
  have hsum := lcgStep_add_lcgStep_bounds s
  rw [maskSum, maskSpan]
  omega

/-- A multiple of the modulus gives 0 and leaves 0 (R85 f). -/
theorem lcgRnd_of_dvd {s r : Int} (hdvd : (2796203 : Int) ∣ s) (hr : 1 ≤ r) : lcgRnd s r = (0, 0) := by
  have hzero : lcgStep 0 = 0 := rfl
  rw [lcgRnd_of_one_le hr, lcgStep_eq_zero_of_dvd hdvd, hzero]
  rfl

/-- With a range, the result and the new state depend on the first draw alone. -/
theorem lcgRnd_congr {a b r : Int} (h : lcgStep a = lcgStep b) (hr : 1 ≤ r) : lcgRnd a r = lcgRnd b r := by
  rw [lcgRnd_of_one_le hr, lcgRnd_of_one_le hr, h]

/-- Settles O7: the equation of a range-mapped draw, and the sum of its two draws by the sign of the state. -/
theorem rndLaws : Obligations.RndLaws := by
  refine ⟨fun s r => lcgRnd_of_lt_one, fun s r hr => ⟨lcgRnd_of_one_le hr, lcgRnd_value_bounds hr⟩, fun s => ?range_one,
    fun s r hs hr => ?large_range, fun s hs => ⟨maskSum_draws_of_nonneg hs, (lcgStep_add_lcgStep_bounds s).2⟩,
    fun s hs hdvd => ?negative, fun s r => lcgRnd_of_dvd, fun s r => lcgRnd_congr (lcgStep_trem s).symm⟩
  case range_one => rw [lcgRnd_of_one_le le_rfl, Int.emod_one]
  case large_range =>
    have hsum := lcgStep_nonneg hs
    have hsum' := lcgStep_nonneg hsum
    have hbound := lcgStep_add_lcgStep_bounds s
    rw [lcgRnd_of_one_le (by omega), maskSum_draws_of_nonneg hs]
    exact Int.emod_eq_of_lt (by omega) (by omega)
  case negative =>
    obtain ⟨hneg, hmask⟩ := maskSum_draws_of_neg hs hdvd
    have hbound := lcgStep_add_lcgStep_bounds s
    exact ⟨hmask, by omega, by omega⟩

end Sys2Proof.Machine
end

section
/-! PROOF. The full period of the draws (40_generator.md R83): 125 is a primitive root of the prime 2796203. -/

namespace Sys2Proof.Machine

/-! ## The order of the multiplier -/

theorem prime_modulus : Nat.Prime 2796203 := by norm_num

theorem prime_dvd_period {q : Nat} (hq : q.Prime) (h : q ∣ 2796202) : q = 2 ∨ q = 23 ∨ q = 89 ∨ q = 683 := by
  rw [show 2796202 = 2 * 23 * 89 * 683 by norm_num, hq.dvd_mul, hq.dvd_mul, hq.dvd_mul,
    Nat.prime_dvd_prime_iff_eq hq (by norm_num), Nat.prime_dvd_prime_iff_eq hq (by norm_num),
    Nat.prime_dvd_prime_iff_eq hq (by norm_num), Nat.prime_dvd_prime_iff_eq hq (by norm_num)] at h
  omega

/-- The power of 125 with exponent 2796202 is 1 and none with a maximal proper divisor of it is. -/
theorem orderOf_mult : orderOf (125 : ZMod 2796203) = 2796202 := by
  refine orderOf_eq_of_pow_and_pow_div_prime (by decide) (by reduce_mod_char) fun q hq hdvd => ?_
  rcases prime_dvd_period hq hdvd with rfl | rfl | rfl | rfl <;> (reduce_mod_char; decide)

/-! ## Draws modulo 2796203 -/

theorem cast_iterate_lcgStep (k : Nat) (s : Int) : ((lcgStep^[k] s : Int) : ZMod 2796203) = 125 ^ k * s := by
  induction k with
  | zero => rw [pow_zero, one_mul, Function.iterate_zero_apply]
  | succ k ih =>
    have hstep : ((lcgStep (lcgStep^[k] s) : Int) : ZMod 2796203) = (125 * lcgStep^[k] s : Int) :=
      (ZMod.intCast_eq_intCast_iff_dvd_sub _ _ _).mpr (dvd_mul_sub_lcgStep _)
    rw [Function.iterate_succ_apply', hstep, Int.cast_mul, ih, Int.cast_ofNat, pow_succ', mul_assoc]

/-- Congruent states of the positive reduced ones are equal. -/
theorem eq_of_cast_eq {a b : Int} (ha : a ∈ Set.Icc 1 2796202) (hb : b ∈ Set.Icc 1 2796202)
    (h : (a : ZMod 2796203) = b) : a = b := by
  have hdvd := (ZMod.intCast_eq_intCast_iff_dvd_sub a b 2796203).mp h
  obtain ⟨ha, ha'⟩ := ha
  obtain ⟨hb, hb'⟩ := hb
  omega

theorem cast_ne_zero {s : Int} (hs : s ∈ Set.Icc 1 2796202) : (s : ZMod 2796203) ≠ 0 := by
  rw [Ne, ZMod.intCast_zmod_eq_zero_iff_dvd]
  obtain ⟨hs, hs'⟩ := hs
  omega

/-! ## The cycle of the positive reduced states -/

section
variable {s t : Int} (hs : s ∈ Set.Icc 1 2796202)
include hs

theorem isPeriodicPt_lcgStep_iff (k : Nat) : Function.IsPeriodicPt lcgStep k s ↔ 2796202 ∣ k := by
  have := Fact.mk prime_modulus
  have hcast := cast_iterate_lcgStep k s
  rw [← orderOf_mult, orderOf_dvd_iff_pow_eq_one]
  constructor
  · intro h
    rw [h.eq] at hcast
    exact mul_right_cancel₀ (cast_ne_zero hs) (hcast.symm.trans (one_mul _).symm)
  · intro h
    refine eq_of_cast_eq (lcgStep_mapsTo_pos.iterate k hs) hs ?_
    rw [hcast, h, one_mul]

theorem minimalPeriod_lcgStep : Function.minimalPeriod lcgStep s = 2796202 :=
  Nat.dvd_right_iff_eq.mp fun k =>
    Function.isPeriodicPt_iff_minimalPeriod_dvd.symm.trans (isPeriodicPt_lcgStep_iff hs k)

/-- The 2796202 states of a cycle are all different, so they are all the positive reduced states. -/
theorem exists_iterate_lcgStep_eq_of_pos (ht : t ∈ Set.Icc 1 2796202) : ∃ k, k < 2796202 ∧ lcgStep^[k] s = t := by
  have hinj : Set.InjOn (lcgStep^[·] s) (Finset.range 2796202) := by
    have h := Function.iterate_injOn_Iio_minimalPeriod (f := lcgStep) (x := s)
    rwa [minimalPeriod_lcgStep hs, ← Finset.coe_range] at h
  have hmaps : Set.MapsTo (lcgStep^[·] s) (Finset.range 2796202) (Finset.Icc (1 : Int) 2796202) := fun k _ => by
    rw [Finset.coe_Icc]
    exact lcgStep_mapsTo_pos.iterate k hs
  have hcard : (Finset.Icc (1 : Int) 2796202).card ≤ (Finset.range 2796202).card := by
    rw [Int.card_Icc, Finset.card_range]
    omega
  obtain ⟨k, hk, hkt⟩ := Finset.surjOn_of_injOn_of_card_le _ hmaps hinj hcard (Finset.mem_coe.mpr (Finset.mem_Icc.mpr ht))
  exact ⟨k, Finset.mem_range.mp hk, hkt⟩

end

/-! ## Both signs -/

theorem iterate_lcgStep_neg (k : Nat) (s : Int) : lcgStep^[k] (-s) = -lcgStep^[k] s :=
  (Function.Semiconj.iterate_right (f := Neg.neg) (fun v => (lcgStep_neg v).symm) k s).symm

theorem iterate_lcgStep_eq_self_iff {s : Int} (hred : IsReduced s) (hne : s ≠ 0) (k : Nat) :
    lcgStep^[k] s = s ↔ 2796202 ∣ k := by
  obtain ⟨hlow, hhigh⟩ := hred
  rcases lt_or_gt_of_ne hne with hs | hs
  · rw [← isPeriodicPt_lcgStep_iff (s := -s) ⟨by omega, by omega⟩ k, Function.IsPeriodicPt, Function.IsFixedPt,
      iterate_lcgStep_neg, neg_inj]
  · exact isPeriodicPt_lcgStep_iff ⟨by omega, hhigh⟩ k

theorem exists_iterate_lcgStep_eq {s t : Int} (hs : IsReduced s) (ht : IsReduced t) (hsign : 0 < s * t) :
    ∃ k, k < 2796202 ∧ lcgStep^[k] s = t := by
  obtain ⟨hs, hs'⟩ := hs
  obtain ⟨ht, ht'⟩ := ht
  rcases mul_pos_iff.mp hsign with ⟨hs₀, ht₀⟩ | ⟨hs₀, ht₀⟩
  · exact exists_iterate_lcgStep_eq_of_pos ⟨by omega, hs'⟩ ⟨by omega, ht'⟩
  · obtain ⟨k, hk, h⟩ := exists_iterate_lcgStep_eq_of_pos (s := -s) (t := -t) ⟨by omega, by omega⟩ ⟨by omega, by omega⟩
    exact ⟨k, hk, by rwa [iterate_lcgStep_neg, neg_inj] at h⟩

/-- Settles O6: the period is the order of 125; a call of RND makes two draws, so half as many calls go once round. -/
theorem drawsHaveFullPeriod : Obligations.DrawsHaveFullPeriod := by
  intro s hred hne
  refine ⟨iterate_lcgStep_eq_self_iff hred hne, fun t ht hsign => exists_iterate_lcgStep_eq hred ht hsign, fun r hr => ?_⟩
  have hrnd : (fun v => (lcgRnd v r).2) = lcgStep^[2] := funext fun v => lcgRnd_state v hr
  rw [hrnd, ← Function.iterate_mul, iterate_lcgStep_eq_self_iff hred hne]

end Sys2Proof.Machine
end

section
/-! PROOF. What one iteration of SELECT guarantees (41_selector.md R101), the tables at the indices it can reach (10_state.md R29),
and the selections whose end is known by hand (41_selector.md R108, R109). -/

namespace Sys2Proof.Machine

/-! ## One iteration (R101) -/

section
variable {s level : Int}

theorem selIter_of_noClamp (h1 : 1 ≤ level + ((selJitter s).1 - 5)) (h26 : level + ((selJitter s).1 - 5) ≤ 26) :
    selIter s level = (level + ((selJitter s).1 - 5) - 1, (selJitter s).2) := by
  rcases selIter_cases s level with ⟨-, -, h⟩ | ⟨hlow, -⟩ | ⟨hhigh, -⟩
  · exact h
  all_goals omega

theorem selIter_of_lowClamp (hlow : level + ((selJitter s).1 - 5) < 1) : selIter s level = lcgRnd (selJitter s).2 5 := by
  rcases selIter_cases s level with ⟨h1, -⟩ | ⟨-, h⟩ | ⟨hhigh, -⟩
  · omega
  · exact h
  · omega

theorem selIter_of_highClamp (hhigh : 26 < level + ((selJitter s).1 - 5)) :
    selIter s level = ((lcgRnd (selJitter s).2 5).1 + 21, (lcgRnd (selJitter s).2 5).2) := by
  rcases selIter_cases s level with ⟨-, h26, -⟩ | ⟨hlow, -⟩ | ⟨-, h⟩
  · omega
  · omega
  · exact h

/-- The index by the clamp that fires: the depth less 1, 0 to 4, or 21 to 25. -/
theorem selIter_index_cases (s level : Int) :
    let d := level + ((selJitter s).1 - 5)
    let idx := (selIter s level).1
    (1 ≤ d ∧ d ≤ 26 ∧ idx = d - 1) ∨ (d < 1 ∧ 0 ≤ idx ∧ idx ≤ 4) ∨ (26 < d ∧ 21 ≤ idx ∧ idx ≤ 25) := by
  intro d idx
  have hc := lcgRnd_value_bounds (s := (selJitter s).2) (r := 5) (by decide)
  rcases selIter_cases s level with ⟨h1, h26, h⟩ | ⟨hlow, h⟩ | ⟨hhigh, h⟩
  · exact .inl ⟨h1, h26, congrArg Prod.fst h⟩
  · have hidx : idx = (lcgRnd (selJitter s).2 5).1 := congrArg Prod.fst h
    exact .inr (.inl ⟨hlow, by omega, by omega⟩)
  · have hidx : idx = (lcgRnd (selJitter s).2 5).1 + 21 := congrArg Prod.fst h
    exact .inr (.inr ⟨hhigh, by omega, by omega⟩)

end

/-- Settles O21: the draws by the clamp that fires, and the bounds by `selIter_index_cases` and a jitter of 0 to 9. -/
theorem selIterGuarantees : Obligations.SelIterGuarantees := by
  intro s level hlevel d
  obtain ⟨hj, hj'⟩ := selJitter_bounds s
  have hidx := selIter_index_cases s level
  refine ⟨selIter_index_bounds s level, fun h1 h26 => ?four_draws, fun hclamp => ?six_draws, ?_, ?_,
    fun h32 => ⟨by omega, ?level_32⟩, ?_, ?_, ?_, ?_, ?_⟩
  case four_draws =>
    rw [selIter_of_noClamp h1 h26]
    exact selJitter_state s
  case six_draws =>
    rw [← lcgRnd_selJitter_state s (r := 5) (by decide)]
    rcases hclamp with hlow | hhigh
    · rw [selIter_of_lowClamp hlow]
    · rw [selIter_of_highClamp hhigh]
  case level_32 => rw [selIter_of_highClamp (by omega), selIter_of_highClamp (by omega)]
  all_goals omega

/-! ## The tables (10_state.md R29) -/

/-- Settles O15: the two tables evaluated. -/
theorem tableProperties : Obligations.TableProperties :=
  ⟨by decide, by decide, by decide, by decide, by decide, by decide, by decide, by decide, params_wf, rfl⟩

/-! ## From a multiple of 2796203 (R108): every draw is 0, so every iteration computes the same index -/

/-- The index every iteration computes at a level: jitter 0, depth `level - 5`, and a clamp that redraws 0. -/
def zeroIndex (level : Int) : Nat := if level ≤ 5 then 0 else if level ≤ 31 then (level - 6).toNat else 21

section
variable {s level : Int} (hdvd : (2796203 : Int) ∣ s)
include hdvd

theorem selJitter_of_dvd : selJitter s = (0, 0) := by
  have ha : lcgRnd s rangeA = (0, 0) := lcgRnd_of_dvd hdvd (by decide)
  have hb : lcgRnd 0 rangeB = (0, 0) := lcgRnd_of_dvd (dvd_zero _) (by decide)
  rw [selJitter, ha, hb]
  rfl

theorem selIter_of_dvd (hlevel : 1 ≤ level) : selIter s level = ((zeroIndex level : Int), 0) := by
  have hj := selJitter_of_dvd hdvd
  have hc : lcgRnd 0 5 = (0, 0) := lcgRnd_of_dvd (dvd_zero _) (by decide)
  unfold zeroIndex
  split_ifs with h5 h31
  · rw [selIter_of_lowClamp (by rw [hj]; omega), hj, hc]
    rfl
  · rw [selIter_of_noClamp (by rw [hj]; omega) (by rw [hj]; omega), hj]
    exact Prod.ext (by simp only; omega) rfl
  · rw [selIter_of_highClamp (by rw [hj]; omega), hj, hc]
    rfl

theorem iterState_of_dvd (hlevel : 1 ≤ level) (k : Nat) : iterState level (k + 1) s = 0 := by
  induction k generalizing s with
  | zero => exact congrArg Prod.snd (selIter_of_dvd hdvd hlevel)
  | succ k ih =>
    rw [iterState_succ, selIter_of_dvd hdvd hlevel]
    exact ih (dvd_zero _)

theorem slotAt_of_dvd (hlevel : 1 ≤ level) (cat : Category) (k : Nat) :
    slotAt params level cat k s = (tableOf params cat)[zeroIndex level]? := by
  induction k generalizing s with
  | zero =>
    have hidx : iterIndex level 0 s = zeroIndex level := congrArg Prod.fst (selIter_of_dvd hdvd hlevel)
    rw [slotAt_eq_getElem? params_wf, hidx, Int.toNat_natCast]
  | succ k ih =>
    rw [slotAt_succ, selIter_of_dvd hdvd hlevel]
    exact ih (dvd_zero _)

end

/-- The nine pairs are those whose one slot is blank; between the clamps this is a look at each slot of the two tables. -/
theorem mem_zeroStatePairs_iff {level : Int} (hlevel : 1 ≤ level) (cat : Category) :
    (level, cat) ∈ zeroStatePairs ↔ (tableOf params cat)[zeroIndex level]? = some blank := by
  have hbetween : ∀ n : Nat, n < 26 →
      (((n : Int) + 6, cat) ∈ zeroStatePairs ↔ (tableOf params cat)[n]? = some blank) := by
    cases cat <;> decide
  have hclamps : (tableOf params cat)[0]? ≠ some blank ∧ (tableOf params cat)[21]? ≠ some blank := by
    cases cat <;> decide
  have hrange : ∀ pair ∈ zeroStatePairs, 6 ≤ pair.1 ∧ pair.1 ≤ 31 := by decide
  unfold zeroIndex
  split_ifs with h5 h31
  · exact ⟨fun h => absurd (hrange _ h).1 (by simp only; omega), fun h => absurd h hclamps.1⟩
  · rw [← hbetween (level - 6).toNat (by omega), show ((level - 6).toNat : Int) + 6 = level by omega]
  · exact ⟨fun h => absurd (hrange _ h).2 h31, fun h => absurd h hclamps.2⟩

theorem exists_slotAt {p : Params} (hp : p.wf) (level : Int) (cat : Category) (k : Nat) (s : Int) :
    ∃ ch, slotAt p level cat k s = some ch :=
  tableRead_isSome hp cat (selIter_index_bounds _ level).1 (selIter_index_bounds _ level).2

/-- A species that the first iteration lands on is the first there is. -/
theorem firstSpecies_zero {p : Params} {level s : Int} {cat : Category} {ch : Byte}
    (hslot : slotAt p level cat 0 s = some ch) (hne : ch ≠ blank) : FirstSpecies p level cat s 0 ch :=
  ⟨blankUpTo_zero, hslot, hne⟩

/-- Settles O25: all slots are the one of `slotAt_of_dvd`, either blank 64 times over or the first species. -/
theorem zeroStateSelections : Obligations.ZeroStateSelections := by
  intro imm cat s _ himm hs hdvd idx
  have hslots : ∀ k, slotAt params imm cat k (readState s) = (tableOf params cat)[idx]? := slotAt_of_dvd hdvd himm cat
  have hstate : ∀ k, iterState imm (k + 1) (readState s) = 0 := iterState_of_dvd hdvd himm
  split
  next hmem =>
    have hblank : (tableOf params cat)[idx]? = some blank := (mem_zeroStatePairs_iff himm cat).mp hmem
    refine ⟨hblank, ?_⟩
    rw [exec_select_of_blankUpTo himm hs fun j _ => (hslots j).trans hblank, hstate 63]
    rfl
  next hmem =>
    obtain ⟨ch, hch⟩ := exists_slotAt params_wf imm cat 0 (readState s)
    have hslot : (tableOf params cat)[idx]? = some ch := (hslots 0).symm.trans hch
    have hne : ch ≠ blank := by
      rintro rfl
      exact hmem ((mem_zeroStatePairs_iff himm cat).mpr hslot)
    refine ⟨ch, hslot, hne, ?_⟩
    rw [exec_select_of_firstSpecies himm hs (by decide) (firstSpecies_zero hch hne), hstate 0, ← formatR_ok_byte]
    rfl

/-! ## Selections of one iteration (R109) -/

/-- Resident from level 26 up the index is 20 to 25, wandering up to level 5 it is 0 to 8, and these reaches hold no blank. -/
theorem slotAt_zero_ne_blank {level : Int} {cat : Category} (hlevel : 1 ≤ level)
    (h : (cat = .resident ∧ 26 ≤ level) ∨ (cat = .wandering ∧ level ≤ 5)) (s : Int) :
    slotAt params level cat 0 s ≠ some blank := by
  obtain ⟨-, hres, hwan, -⟩ := tableProperties
  have hj := selJitter_bounds s
  have hidx := selIter_index_cases s level
  rw [slotAt_eq_getElem? params_wf, iterIndex, iterState_zero]
  rcases h with ⟨rfl, h26⟩ | ⟨rfl, h5⟩
  · refine hres _ ?_
    simp only [List.mem_cons, List.not_mem_nil]
    omega
  · refine hwan _ ?_
    simp only [List.mem_cons, List.not_mem_nil]
    omega

/-- Settles O26: the first slot holds no blank. -/
theorem oneIterationSelections : Obligations.OneIterationSelections := by
  intro imm cat s _ himm hs hreach
  obtain ⟨ch, hch⟩ := exists_slotAt params_wf imm cat 0 (readState s)
  have hne : ch ≠ blank := by
    rintro rfl
    exact slotAt_zero_ne_blank himm hreach _ hch
  exact ⟨ch, _, (slotAt_eq_getElem? params_wf imm cat 0 _).symm.trans hch, hne,
    exec_select_of_firstSpecies himm hs (by decide) (firstSpecies_zero hch hne), toInt_writeState_iterState imm 0 _ s,
    congrArg some (formatR_ok_byte ch), rfl⟩

end Sys2Proof.Machine
end

section
/-! PROOF. The cap on the iterations of SELECT (92_eei_decisions.md D9): a loop without one is decided by `neverEnds` iterations, since
it comes back to a state it was in (log entry 4), and a larger cap, or none, changes nothing where a species was found. -/

namespace Sys2Proof.Machine

/-! ## A loop that finds nothing in `neverEnds` iterations never does -/

theorem neverEnds_eq : neverEnds = 5592406 := by unfold neverEnds; rfl

/-- The slots after `j` iterations are those of the state they left. -/
theorem slotAt_add (p : Params) (level : Int) (cat : Category) (j k : Nat) (s : Int) :
    slotAt p level cat (j + k) s = slotAt p level cat k (iterState level j s) := by
  induction j generalizing s with
  | zero => rw [Nat.zero_add, iterState_zero]
  | succ j ih => rw [Nat.succ_add, slotAt_succ, ih, iterState_succ]

section
variable {p : Params} {level : Int} {cat : Category} {s : Int} {k : Nat} {ch : Byte}

/-- No state is met twice before the first species: from its second visit on the slots repeat, blanks all of them. -/
theorem FirstSpecies.iterState_ne (h : FirstSpecies p level cat s k ch) {i j : Nat} (hij : i < j) (hjk : j ≤ k) :
    iterState level i s ≠ iterState level j s := by
  intro heq
  have hrepeat : slotAt p level cat (i + (k - j)) s = slotAt p level cat k s := by
    rw [slotAt_add, heq, ← slotAt_add, Nat.add_sub_cancel' hjk]
  have hblank := h.blank_before (i + (k - j)) (by omega)
  exact h.ne_blank (Option.some.inj (h.slot.symm.trans (hrepeat.symm.trans hblank)))

/-- So the first species stands among the first `neverEnds` iterations: there are 5592405 reduced states. -/
theorem FirstSpecies.lt_neverEnds (h : FirstSpecies p level cat s k ch) : k < neverEnds := by
  rw [neverEnds_eq]
  by_contra hk
  have hcard : (Finset.Icc (-2796202 : Int) 2796202).card < (Finset.range 5592406).card := by
    rw [Int.card_Icc, Finset.card_range]
    omega
  have hmaps : Set.MapsTo (fun i => iterState level (i + 1) s) (Finset.range 5592406) (Finset.Icc (-2796202 : Int) 2796202) :=
    fun i _ => Finset.mem_coe.mpr (Finset.mem_Icc.mpr (iterState_bounds level i s))
  obtain ⟨i, hi, j, hj, hne, heq⟩ := Finset.exists_ne_map_eq_of_card_lt_of_maps_to hcard hmaps
  rw [Finset.mem_range] at hi hj
  rcases lt_or_gt_of_ne hne with hij | hij
  · exact h.iterState_ne (by omega) (by omega) heq
  · exact h.iterState_ne (by omega) (by omega) heq.symm

/-- Blanks for `neverEnds` iterations are blanks for ever. -/
theorem BlankUpTo.forever (hp : p.wf) (h : BlankUpTo p level cat neverEnds s) (k : Nat) :
    slotAt p level cat k s = some blank := by
  rcases selLoop_cases hp level cat (k + 1) s with ⟨k', ch, -, hfirst, -⟩ | ⟨hblank, -⟩
  · exact absurd (hfirst.le_of_blankUpTo h) (Nat.not_le.mpr hfirst.lt_neverEnds)
  · exact hblank k (by omega)

end

/-! ## SELECT with another cap -/

/-- The loop reads the tables alone, not the cap. -/
theorem selLoop_with_maxIter (p : Params) (cap : Option Nat) (level : Int) (cat : Category) (n : Nat) (s : Int) :
    selLoop { p with maxIter := cap } level cat n s = selLoop p level cat n s := by
  have hread : ∀ idx, tableRead { p with maxIter := cap } cat idx = tableRead p cat idx := fun _ => rfl
  induction n generalizing s with
  | zero => rfl
  | succ n ih => simp only [selLoop, hread, ih]

section
variable {p : Params} {imm : Int} {cat : Category} {s : State} (hp : p.wf) (himm : 1 ≤ imm) (hs : s.seeded = true)
include hp himm hs

/-- The two ends of a seeded SELECT, whatever the cap: the first species among its iterations, or all of them on a blank. -/
theorem selectWith_of_seeded (cap : Option Nat) :
    (∃ k ch, k < iterationBound cap ∧ FirstSpecies p imm cat (readState s) k ch ∧
      selectWith { p with maxIter := cap } imm cat s =
        .next (respond (ch.setWidth 32) (writeState (iterState imm (k + 1) (readState s)) s))) ∨
    (BlankUpTo p imm cat (iterationBound cap) (readState s) ∧
      selectWith { p with maxIter := cap } imm cat s =
        .next (ranOut cap (iterState imm (iterationBound cap) (readState s)) s)) := by
  unfold selectWith
  rcases ifLevel_cases imm s _ with ⟨-, hlevel⟩ | ⟨hlt, -⟩
  swap
  · omega
  rcases ifSeeded_cases s _ with ⟨-, hrun⟩ | ⟨hs', -⟩
  swap
  · simp [hs] at hs'
  rw [hlevel, hrun, selLoop_with_maxIter]
  rcases selLoop_cases hp imm cat (iterationBound cap) (readState s) with ⟨k, ch, hk, hfirst, hloop⟩ | ⟨hblank, hloop⟩
  · exact .inl ⟨k, ch, hk, hfirst, by rw [hloop]⟩
  · exact .inr ⟨hblank, by rw [hloop]⟩

theorem selectWith_of_firstSpecies {cap : Option Nat} {k : Nat} {ch : Byte} (hk : k < iterationBound cap)
    (h : FirstSpecies p imm cat (readState s) k ch) :
    selectWith { p with maxIter := cap } imm cat s =
      .next (respond (ch.setWidth 32) (writeState (iterState imm (k + 1) (readState s)) s)) := by
  rcases selectWith_of_seeded hp himm hs cap with ⟨k', ch', -, h', hrun⟩ | ⟨hblank, -⟩
  · obtain ⟨rfl, rfl⟩ := h.unique h'
    exact hrun
  · exact absurd (h.le_of_blankUpTo hblank) (by omega)

end

/-- Settles O27: an OK status tells that a species was found, and the first species is within every larger cap, and within
`neverEnds` iterations. -/
theorem largerCapsChangeNothing : Obligations.LargerCapsChangeNothing := by
  intro p n cap imm cat s t hp himm hs hcap ht hok
  rcases selectWith_of_seeded hp himm hs (some n) with ⟨k, ch, hk, hfirst, h⟩ | ⟨-, h⟩ <;>
    obtain rfl := Host.Outcome.next.inj (ht.symm.trans h)
  · refine selectWith_of_firstSpecies hp himm hs ?_ hfirst
    cases cap with
    | none => exact hfirst.lt_neverEnds
    | some m => exact Nat.lt_of_lt_of_le hk (hcap m rfl)
  · exact absurd ((shownStatus_raise .exhausted _).symm.trans hok) (by decide)

/-- Settles O28: the two ends of SELECT without a cap, the second of them `BlankUpTo.forever`. -/
theorem uncappedSelectNeverRespondsWhenItNeverEnds : Obligations.UncappedSelectNeverRespondsWhenItNeverEnds := by
  intro p imm cat s hp hcap himm hs
  have huncapped : { p with maxIter := none } = p := by rw [← hcap]
  have hends := selectWith_of_seeded (cat := cat) hp himm hs none
  rw [huncapped] at hends
  rcases hends with ⟨k, ch, -, hfirst, h⟩ | ⟨hblank, h⟩
  · refine ⟨_, h, ⟨fun hall => ?_, nofun⟩, nofun, fun k' ch' hbefore hslot hne => ?_⟩
    · exact absurd (Option.some.inj (hfirst.slot.symm.trans (hall k))) hfirst.ne_blank
    · obtain ⟨rfl, rfl⟩ := hfirst.unique ⟨hbefore, hslot, hne⟩
      exact ⟨congrArg some (formatR_ok_byte ch), toInt_writeState_iterState imm k _ s⟩
  · have hforever := BlankUpTo.forever hp hblank
    refine ⟨_, h, ⟨fun _ => rfl, fun _ => hforever⟩, fun _ => ⟨rfl, rfl, hs⟩, fun k ch _ hslot hne => ?_⟩
    exact absurd (Option.some.inj (hslot.symm.trans (hforever k))) hne

end Sys2Proof.Machine
end

section
/-! PROOF. STATE over all commands but SEED: its sign and its zero (10_state.md R23), and states with equal remainders, which
give the same responses (40_generator.md R82 f, R85 g). -/

namespace Sys2Proof.Machine

/-! ## Signs and zeros (R23) -/

theorem unseededRun_state {i : Instr} (hne : ∀ imm, i ≠ .seed imm) (s : State) : (unseededRun i s).state = s.state := by
  cases i with
  | seed imm => exact absurd rfl (hne imm)
  | draw => rfl
  | rnd | select =>
    simp only [unseededRun]
    split <;> rfl

/-- A command but SEED leaves STATE alone or moves it by at least one draw. -/
theorem state_of_exec {i : Instr} {s t : State} (hne : ∀ imm, i ≠ .seed imm) (ht : exec i s = .next t) :
    t.state = s.state ∨ ∃ n, t.state.toInt = lcgStep^[n + 1] s.state.toInt := by
  rcases Bool.eq_false_or_eq_true s.seeded with hs | hs
  swap
  · obtain rfl := Host.Outcome.next.inj (ht.symm.trans (exec_of_unseeded i hs))
    exact .inl (unseededRun_state hne s)
  obtain ⟨⟨u, hu, hdraw⟩, hrnd, hselect⟩ := commandsAdvanceByDraws s hs
  cases i with
  | seed imm => exact absurd rfl (hne imm)
  | draw =>
    obtain rfl := Host.Outcome.next.inj (ht.symm.trans hu)
    exact .inr ⟨0, hdraw⟩
  | rnd imm =>
    rcases lt_or_ge imm 1 with himm | himm
    · obtain rfl := Host.Outcome.next.inj (ht.symm.trans (exec_rnd_of_lt_one himm s))
      exact .inl rfl
    · obtain ⟨u, hu, hdraws⟩ := hrnd imm himm
      obtain rfl := Host.Outcome.next.inj (ht.symm.trans hu)
      exact .inr ⟨1, hdraws⟩
  | select imm cat =>
    rcases lt_or_ge imm 1 with himm | himm
    · obtain rfl := Host.Outcome.next.inj (ht.symm.trans (exec_select_of_lt_one himm cat s))
      exact .inl rfl
    · obtain ⟨u, n, hu, hn, -, -, hdraws⟩ := hselect imm cat himm
      obtain rfl := Host.Outcome.next.inj (ht.symm.trans hu)
      exact .inr ⟨n - 1, by rwa [Nat.sub_add_cancel (by omega)]⟩

theorem iterate_lcgStep_isReduced (n : Nat) (v : Int) : IsReduced (lcgStep^[n + 1] v) := by
  rw [Function.iterate_succ_apply']
  exact lcgStep_bounds _

theorem iterate_lcgStep_nonneg (n : Nat) {v : Int} (h : 0 ≤ v) : 0 ≤ lcgStep^[n] v := by
  have hmaps : Set.MapsTo lcgStep (Set.Ici 0) (Set.Ici 0) := fun _ => lcgStep_nonneg
  exact hmaps.iterate n h

theorem iterate_lcgStep_nonpos (n : Nat) {v : Int} (h : v ≤ 0) : lcgStep^[n] v ≤ 0 := by
  have hmaps : Set.MapsTo lcgStep (Set.Iic 0) (Set.Iic 0) := fun _ => lcgStep_nonpos
  exact hmaps.iterate n h

theorem iterate_lcgStep_ne_zero (n : Nat) {v : Int} (hred : IsReduced v) (hne : v ≠ 0) : lcgStep^[n] v ≠ 0 := by
  induction n generalizing v with
  | zero => exact hne
  | succ n ih => exact ih (lcgStep_bounds v) (lcgStep_ne_zero hred hne)

/-- Settles O32: STATE is left alone or moved by draws, which keep signs, zero, and the reduced non-zero states. -/
theorem stateSignAndZeroArePreserved : Obligations.StateSignAndZeroArePreserved := by
  intro i s t hne ht
  rcases state_of_exec hne ht with h | ⟨n, h⟩
  · rw [h]
    exact ⟨.inl rfl, le_of_lt, le_of_lt, id, fun hred hzero => ⟨hred, hzero⟩⟩
  · rw [h]
    refine ⟨.inr (iterate_lcgStep_isReduced n _), fun hpos => iterate_lcgStep_nonneg _ hpos.le,
      fun hneg => iterate_lcgStep_nonpos _ hneg.le, fun hzero => ?_,
      fun hred hzero => ⟨iterate_lcgStep_isReduced n _, iterate_lcgStep_ne_zero _ hred hzero⟩⟩
    exact le_antisymm (iterate_lcgStep_nonpos _ hzero.le) (iterate_lcgStep_nonneg _ hzero.ge)

/-! ## Equal remainders: the operations of the selector depend on the first draw alone -/

section
variable {a b : Int} (hstep : lcgStep a = lcgStep b) (level : Int)
include hstep

theorem selIter_congr : selIter a level = selIter b level := by
  have hjitter : selJitter a = selJitter b := by
    have h := lcgRnd_congr hstep (r := rangeA) (by decide)
    rw [selJitter, h, selJitter]
  rw [selIter, hjitter, selIter]

theorem iterState_congr (k : Nat) : iterState level (k + 1) a = iterState level (k + 1) b := by
  rw [iterState_succ, selIter_congr hstep, iterState_succ]

theorem slotAt_congr (p : Params) (cat : Category) (k : Nat) : slotAt p level cat k a = slotAt p level cat k b := by
  cases k with
  | zero => rw [slotAt, iterIndex, iterState_zero, selIter_congr hstep, slotAt, iterIndex, iterState_zero]
  | succ k => rw [slotAt_succ, selIter_congr hstep, slotAt_succ]

theorem BlankUpTo.congr {level : Int} {p : Params} {cat : Category} {k : Nat} (h : BlankUpTo p level cat k a) :
    BlankUpTo p level cat k b := fun j hj => (slotAt_congr hstep level p cat j).symm.trans (h j hj)

theorem FirstSpecies.congr {level : Int} {p : Params} {cat : Category} {k : Nat} {ch : Byte}
    (h : FirstSpecies p level cat a k ch) : FirstSpecies p level cat b k ch :=
  ⟨h.blank_before.congr hstep, (slotAt_congr hstep level p cat k).symm.trans h.slot, h.ne_blank⟩

end

/-! ## Equal remainders, all commands at once -/

theorem unseededRun_with_state (i : Instr) (s : State) (v : Word) :
    unseededRun i { s with state := v } = unseededRun i s ∨
    ((unseededRun i s).state = s.state ∧ unseededRun i { s with state := v } = { unseededRun i s with state := v }) := by
  cases i with
  | seed imm => exact .inl rfl
  | draw => exact .inr ⟨rfl, rfl⟩
  | rnd | select =>
    simp only [unseededRun]
    split <;> exact .inr ⟨rfl, rfl⟩

/-- Where two values of STATE have one next draw, a command either gives the same next state from both, or makes no draw and
leaves each as it was, with the same response. -/
theorem exec_with_state (i : Instr) {s : State} {v : Word}
    (hstep : lcgStep (sext32 s.state) = lcgStep (sext32 v)) :
    ∃ t, exec i s = .next t ∧
      (exec i { s with state := v } = .next t ∨
        (t.state = s.state ∧ exec i { s with state := v } = .next { t with state := v })) := by
  rcases Bool.eq_false_or_eq_true s.seeded with hs | hs
  swap
  · refine ⟨_, exec_of_unseeded i hs, ?_⟩
    rw [exec_of_unseeded i (s := { s with state := v }) hs]
    rcases unseededRun_with_state i s v with h | ⟨hkeep, h⟩
    · exact .inl (congrArg _ h)
    · exact .inr ⟨hkeep, congrArg _ h⟩
  have hs' : ({ s with state := v } : State).seeded = true := hs
  cases i with
  | seed imm => exact ⟨_, exec_seed imm s, .inl (exec_seed imm _)⟩
  | draw =>
    refine ⟨_, exec_draw_of_seeded hs, .inl ?_⟩
    rw [exec_draw_of_seeded hs', readState, readState, hstep]
    rfl
  | rnd imm =>
    rcases lt_or_ge imm 1 with himm | himm
    · exact ⟨_, exec_rnd_of_lt_one himm s, .inr ⟨rfl, exec_rnd_of_lt_one himm _⟩⟩
    · refine ⟨_, exec_rnd_of_seeded himm hs, .inl ?_⟩
      rw [exec_rnd_of_seeded himm hs', readState, readState, lcgRnd_congr hstep himm]
      rfl
  | select imm cat =>
    rcases lt_or_ge imm 1 with himm | himm
    · exact ⟨_, exec_select_of_lt_one himm cat s, .inr ⟨rfl, exec_select_of_lt_one himm cat _⟩⟩
    · rcases exec_select_of_seeded cat himm hs with ⟨k, ch, hk, hfirst, h⟩ | ⟨hblank, h⟩
      · refine ⟨_, h, .inl ?_⟩
        rw [exec_select_of_firstSpecies himm hs' hk (hfirst.congr hstep), readState, readState, iterState_congr hstep]
        rfl
      · refine ⟨_, h, .inl ?_⟩
        rw [exec_select_of_blankUpTo himm hs' (hblank.congr hstep), readState, readState, iterState_congr hstep imm 63]
        rfl

/-- Settles O34: states with equal remainders have one next draw, so both cases of `exec_with_state` give one response. -/
theorem seedsWithEqualRemaindersRespondAlike : Obligations.SeedsWithEqualRemaindersRespondAlike := by
  intro i s s' hs' hrem
  obtain ⟨t, ht, h | ⟨hkeep, h⟩⟩ := exec_with_state i (lcgStep_congr hrem)
  · exact ⟨t, t, ht, hs' ▸ h, rfl, .inl rfl⟩
  · exact ⟨t, { t with state := s'.state }, ht, hs' ▸ h, rfl, .inr ⟨hkeep, rfl⟩⟩

end Sys2Proof.Machine
end
